-- ==== Sys2Proof/Word.lean ====
section
/-! DEFINITION. The machine's words: the bit widths of rule R6 and the register index of rule R20. -/

namespace Sys2Proof

/-- An 8-bit register, timer or memory byte (R6, XLEN). -/
abbrev Byte := BitVec 8

/-- A 12-bit address: `PC`, `I` and a stack entry (R6, ADDR_BITS). -/
abbrev Addr := BitVec 12

/-- A 16-bit instruction word (R6, ILEN). -/
abbrev Word := BitVec 16

/-- A 4-bit field of an instruction word (R8). -/
abbrev Nibble := BitVec 4

/-- The index of one of the sixteen registers, 0 to 15 (R20). -/
abbrev Reg := Fin 16

/-- Register 15, the flag register `VF` (R21). -/
abbrev flagReg : Reg := 15

end Sys2Proof
end

