-- ==== Sys2Proof/Syntax.lean ====
section
/-! DEFINITION. The closed enumeration of the 44 instruction kinds (R95), one constructor per row of the opcode map
(R96), each carrying the operand fields of its row. A field that the kind ignores (R93) is kept, so that the word of an
instruction can be given back (`encode`) and recorded in `FWORD` (R235). -/

namespace Sys2Proof

/-- An instruction kind with the fields of its word: `nnn` is `NNN`, `x` and `y` the register fields `X` and `Y`, `kk`
the immediate byte `KK`, `n` the low nibble `N` (R8). -/
inductive Instr where
  /-- `SYS addr`, `0NNN` (R140); `NNN` is ignored. -/
  | sys (nnn : Addr)
  /-- `CLS`, `00E0` (R190). -/
  | cls
  /-- `RET`, `00EE` (R141). -/
  | ret
  /-- `JP addr`, `1NNN` (R142). -/
  | jp (nnn : Addr)
  /-- `CALL addr`, `2NNN` (R143). -/
  | call (nnn : Addr)
  /-- `SE Vx, byte`, `3XKK` (R144). -/
  | seImm (x : Reg) (kk : Byte)
  /-- `SNE Vx, byte`, `4XKK` (R145). -/
  | sneImm (x : Reg) (kk : Byte)
  /-- `SE Vx, Vy`, `5XY0` (R146). -/
  | seReg (x y : Reg)
  /-- `LD Vx, byte`, `6XKK` (R160). -/
  | ldImm (x : Reg) (kk : Byte)
  /-- `ADD Vx, byte`, `7XKK` (R161). -/
  | addImm (x : Reg) (kk : Byte)
  /-- `LD Vx, Vy`, `8XY0` (R162). -/
  | ldReg (x y : Reg)
  /-- `OR Vx, Vy`, `8XY1` (R163). -/
  | orReg (x y : Reg)
  /-- `AND Vx, Vy`, `8XY2` (R164). -/
  | andReg (x y : Reg)
  /-- `XOR Vx, Vy`, `8XY3` (R165). -/
  | xorReg (x y : Reg)
  /-- `ADD Vx, Vy`, `8XY4` (R166). -/
  | addReg (x y : Reg)
  /-- `SUB Vx, Vy`, `8XY5` (R167). -/
  | sub (x y : Reg)
  /-- `SHR Vx`, `8XY6` (R169); `Y` is ignored. -/
  | shr (x y : Reg)
  /-- `SUBN Vx, Vy`, `8XY7` (R168). -/
  | subn (x y : Reg)
  /-- `SHL Vx`, `8XYE` (R170); `Y` is ignored. -/
  | shl (x y : Reg)
  /-- `SNE Vx, Vy`, `9XY0` (R147). -/
  | sneReg (x y : Reg)
  /-- `LD I, addr`, `ANNN` (R180). -/
  | ldI (nnn : Addr)
  /-- `JP V0, addr`, `BNNN` (R148). -/
  | jpV0 (nnn : Addr)
  /-- `RND Vx, byte`, `CXKK` (R171). -/
  | rnd (x : Reg) (kk : Byte)
  /-- `DRW Vx, Vy, nibble`, `DXYN` (R191). -/
  | drw (x y : Reg) (n : Nibble)
  /-- `SKP Vx`, `EX9E` (R192). -/
  | skp (x : Reg)
  /-- `SKNP Vx`, `EXA1` (R194). -/
  | sknp (x : Reg)
  /-- `LD Vx, DT`, `FX07` (R196). -/
  | ldVxDt (x : Reg)
  /-- `LD Vx, K`, `FX0A` (R195). -/
  | ldVxK (x : Reg)
  /-- `LD DT, Vx`, `FX15` (R197). -/
  | ldDtVx (x : Reg)
  /-- `LD ST, Vx`, `FX18` (R198). -/
  | ldStVx (x : Reg)
  /-- `ADD I, Vx`, `FX1E` (R181). -/
  | addI (x : Reg)
  /-- `LD F, Vx`, `FX29` (R182). -/
  | ldF (x : Reg)
  /-- `LD B, Vx`, `FX33` (R183). -/
  | ldB (x : Reg)
  /-- `LD [I], Vx`, `FX55` (R184). -/
  | ldMemVx (x : Reg)
  /-- `LD Vx, [I]`, `FX65` (R185). -/
  | ldVxMem (x : Reg)
  /-- `SCD nibble`, `00CN` (R211); recognised but unimplemented. -/
  | scd (n : Nibble)
  /-- `SCR`, `00FB` (R212); recognised but unimplemented. -/
  | scr
  /-- `SCL`, `00FC` (R213); recognised but unimplemented. -/
  | scl
  /-- `LOW`, `00FE` (R214); recognised but unimplemented. -/
  | low
  /-- `HIGH`, `00FF` (R215); recognised but unimplemented. -/
  | high
  /-- `LD HF, Vx`, `FX30` (R216); recognised but unimplemented. -/
  | ldHf (x : Reg)
  /-- `LD R, Vx`, `FX75` (R217); recognised but unimplemented. -/
  | ldRVx (x : Reg)
  /-- `LD Vx, R`, `FX85` (R218); recognised but unimplemented. -/
  | ldVxR (x : Reg)
  /-- `INVALID` (R210): a word that matches no pattern, kept whole because the diagnostic reports it. -/
  | invalid (w : Word)
  deriving DecidableEq, Repr

end Sys2Proof
end

