-- ==== Sys2Proof/WellFormed.lean ====
section
/-! DEFINITION. Which terms of `Instr` are instructions: the two kinds whose words are what other kinds leave over
(`SYS`, R100; `INVALID`, R99) carry a word of their own set; every other term is an instruction at every operand. -/

namespace Sys2Proof

/-- The operands `NNN` of page 0 that belong to a more specific kind and not to `SYS`: `CLS`, `RET`, `SCR`, `SCL`, `LOW`,
`HIGH` as full words (R98) and `SCD` at `0CN` (R94). -/
def sysTaken (nnn : Addr) : Bool :=
  nnn == 0x0E0 || nnn == 0x0EE || nnn == 0x0FB || nnn == 0x0FC || nnn == 0x0FE || nnn == 0x0FF ||
    nnn.extractLsb' 4 8 == 0x0C

/-- The function bytes `KK` that page F uses (R99, last row). -/
def pageFUsed (kk : Byte) : Bool :=
  [0x07, 0x0A, 0x15, 0x18, 0x1E, 0x29, 0x30, 0x33, 0x55, 0x65, 0x75, 0x85].contains kk

/-- The invalid words, row by row of the table of rule R99. -/
def invalidWord (w : Word) : Bool :=
  let page : Nibble := w.extractLsb' 12 4
  let n : Nibble := w.extractLsb' 0 4
  let kk : Byte := w.extractLsb' 0 8
  (page == 0x5 && n != 0) ||
  (page == 0x8 && (n == 0x8 || n == 0x9 || n == 0xA || n == 0xB || n == 0xC || n == 0xD || n == 0xF)) ||
  (page == 0x9 && n != 0) ||
  (page == 0xE && kk != 0x9E && kk != 0xA1) ||
  (page == 0xF && !pageFUsed kk)

/-- A well-formed instruction: one that some word decodes to (R94). The checks are on `SYS` (R100) and `INVALID` (R99);
all other kinds have every operand value the encoding admits. -/
def Instr.wellFormed : Instr → Bool
  | .sys nnn => !sysTaken nnn
  | .invalid w => invalidWord w
  | .cls | .ret | .jp _ | .call _ | .seImm _ _ | .sneImm _ _ | .seReg _ _ | .ldImm _ _ | .addImm _ _ | .ldReg _ _
  | .orReg _ _ | .andReg _ _ | .xorReg _ _ | .addReg _ _ | .sub _ _ | .shr _ _ | .subn _ _ | .shl _ _ | .sneReg _ _
  | .ldI _ | .jpV0 _ | .rnd _ _ | .drw _ _ _ | .skp _ | .sknp _ | .ldVxDt _ | .ldVxK _ | .ldDtVx _ | .ldStVx _
  | .addI _ | .ldF _ | .ldB _ | .ldMemVx _ | .ldVxMem _ | .scd _ | .scr | .scl | .low | .high | .ldHf _ | .ldRVx _
  | .ldVxR _ => true

end Sys2Proof
end

