-- ==== Sys2Proof/Decode.lean ====
section
/-! DEFINITION. The decoder, a total function of the 16-bit word (R94), the fields it reads (R8), the byte order of a
fetched word (R60), the encoder written from the same map (R96), and the opcode map's mask and match as data. -/

namespace Sys2Proof

/-! ### Fields of the word (R8) -/

/-- `n3 = w[15:12]`, the page. -/
def fieldPage (w : Word) : Nibble := w.extractLsb' 12 4
/-- `X = w[11:8]`. -/
def fieldX (w : Word) : Reg := (w.extractLsb' 8 4).toFin
/-- `Y = w[7:4]`. -/
def fieldY (w : Word) : Reg := (w.extractLsb' 4 4).toFin
/-- `N = w[3:0]`. -/
def fieldN (w : Word) : Nibble := w.extractLsb' 0 4
/-- `KK = w[7:0]`. -/
def fieldKK (w : Word) : Byte := w.extractLsb' 0 8
/-- `NNN = w[11:0]`. -/
def fieldNNN (w : Word) : Addr := w.extractLsb' 0 12

/-! ### The decoder (R94, R96) -/

/-- Page 0, the only one whose patterns overlap: full words, then `00CN`, then `SYS` (R94, R98, R100). -/
def decodePage0 (w : Word) : Instr :=
  if w = 0x00E0 then .cls
  else if w = 0x00EE then .ret
  else if w = 0x00FB then .scr
  else if w = 0x00FC then .scl
  else if w = 0x00FE then .low
  else if w = 0x00FF then .high
  else if w.extractLsb' 4 12 = (0x00C : BitVec 12) then .scd (fieldN w)
  else .sys (fieldNNN w)

/-- Page 5: `5XY0`, else invalid (R94, R99). -/
def decodePage5 (w : Word) : Instr :=
  if fieldN w = 0x0 then .seReg (fieldX w) (fieldY w) else .invalid w

/-- Page 8, by the low nibble (R94, R99). -/
def decodePage8 (w : Word) : Instr :=
  let x := fieldX w
  let y := fieldY w
  let n := fieldN w
  if n = 0x0 then .ldReg x y
  else if n = 0x1 then .orReg x y
  else if n = 0x2 then .andReg x y
  else if n = 0x3 then .xorReg x y
  else if n = 0x4 then .addReg x y
  else if n = 0x5 then .sub x y
  else if n = 0x6 then .shr x y
  else if n = 0x7 then .subn x y
  else if n = 0xE then .shl x y
  else .invalid w

/-- Page 9: `9XY0`, else invalid (R94, R99). -/
def decodePage9 (w : Word) : Instr :=
  if fieldN w = 0x0 then .sneReg (fieldX w) (fieldY w) else .invalid w

/-- Page E, by the low byte (R94, R99). -/
def decodePageE (w : Word) : Instr :=
  let kk := fieldKK w
  if kk = 0x9E then .skp (fieldX w)
  else if kk = 0xA1 then .sknp (fieldX w)
  else .invalid w

/-- Page F, by the low byte (R94, R99). -/
def decodePageF (w : Word) : Instr :=
  let x := fieldX w
  let kk := fieldKK w
  if kk = 0x07 then .ldVxDt x
  else if kk = 0x0A then .ldVxK x
  else if kk = 0x15 then .ldDtVx x
  else if kk = 0x18 then .ldStVx x
  else if kk = 0x1E then .addI x
  else if kk = 0x29 then .ldF x
  else if kk = 0x30 then .ldHf x
  else if kk = 0x33 then .ldB x
  else if kk = 0x55 then .ldMemVx x
  else if kk = 0x65 then .ldVxMem x
  else if kk = 0x75 then .ldRVx x
  else if kk = 0x85 then .ldVxR x
  else .invalid w

/-- `decode(w)` (R94). Every word of the pages 1, 2, 3, 4, 6, 7, A, B, C, D has one kind; the other pages have a function
of their own. Only page 0 has overlapping patterns, so the order of the pages is not observable (R94). -/
def decode (w : Word) : Instr :=
  let page := fieldPage w
  if page = 0x0 then decodePage0 w
  else if page = 0x1 then .jp (fieldNNN w)
  else if page = 0x2 then .call (fieldNNN w)
  else if page = 0x3 then .seImm (fieldX w) (fieldKK w)
  else if page = 0x4 then .sneImm (fieldX w) (fieldKK w)
  else if page = 0x5 then decodePage5 w
  else if page = 0x6 then .ldImm (fieldX w) (fieldKK w)
  else if page = 0x7 then .addImm (fieldX w) (fieldKK w)
  else if page = 0x8 then decodePage8 w
  else if page = 0x9 then decodePage9 w
  else if page = 0xA then .ldI (fieldNNN w)
  else if page = 0xB then .jpV0 (fieldNNN w)
  else if page = 0xC then .rnd (fieldX w) (fieldKK w)
  else if page = 0xD then .drw (fieldX w) (fieldY w) (fieldN w)
  else if page = 0xE then decodePageE w
  else decodePageF w

/-! ### Bytes (R60, R90) -/

/-- The word of two consecutive bytes, the byte at the lower address being the high one (R60). -/
def wordOfBytes (hi lo : Byte) : Word := hi ++ lo

/-- `HI = w[15:8]`, the byte at the lower address (R8, R60). -/
def highByte (w : Word) : Byte := w.extractLsb' 8 8
/-- The low byte, at the higher address (R60). -/
def lowByte (w : Word) : Byte := w.extractLsb' 0 8

/-- Why a list of bytes has no instruction at its head. -/
inductive DecodeError where
  /-- fewer than the two bytes of an instruction (R90) -/
  | truncated
  deriving DecidableEq, Repr

/-- The instruction at the head of a list of bytes and the bytes after it. Every instruction is two bytes (R90) and every
word has a kind (R103), so the only rejection is a list that is too short. -/
def decodeBytes : List Byte → Except DecodeError (Instr × List Byte)
  | hi :: lo :: rest => .ok (decode (wordOfBytes hi lo), rest)
  | [_] => .error .truncated
  | [] => .error .truncated

/-! ### The encoder (R96) -/

/-- The 4-bit field of a register (R92). -/
def regField (r : Reg) : Nibble := BitVec.ofFin r

/-- A word of format `A` (R91). -/
def formatA (page : Nibble) (nnn : Addr) : Word := page ++ nnn
/-- A word of format `XK` or `XF` (R91). -/
def formatXK (page : Nibble) (x : Reg) (kk : Byte) : Word := page ++ (regField x ++ kk)
/-- A word of format `XY` or `XYN` (R91). -/
def formatXYN (page : Nibble) (x y : Reg) (n : Nibble) : Word := page ++ (regField x ++ (regField y ++ n))

/-- The word of an instruction, from the opcode map of rule R96. -/
def encode : Instr → Word
  | .sys nnn => formatA 0x0 nnn
  | .cls => 0x00E0
  | .ret => 0x00EE
  | .jp nnn => formatA 0x1 nnn
  | .call nnn => formatA 0x2 nnn
  | .seImm x kk => formatXK 0x3 x kk
  | .sneImm x kk => formatXK 0x4 x kk
  | .seReg x y => formatXYN 0x5 x y 0x0
  | .ldImm x kk => formatXK 0x6 x kk
  | .addImm x kk => formatXK 0x7 x kk
  | .ldReg x y => formatXYN 0x8 x y 0x0
  | .orReg x y => formatXYN 0x8 x y 0x1
  | .andReg x y => formatXYN 0x8 x y 0x2
  | .xorReg x y => formatXYN 0x8 x y 0x3
  | .addReg x y => formatXYN 0x8 x y 0x4
  | .sub x y => formatXYN 0x8 x y 0x5
  | .shr x y => formatXYN 0x8 x y 0x6
  | .subn x y => formatXYN 0x8 x y 0x7
  | .shl x y => formatXYN 0x8 x y 0xE
  | .sneReg x y => formatXYN 0x9 x y 0x0
  | .ldI nnn => formatA 0xA nnn
  | .jpV0 nnn => formatA 0xB nnn
  | .rnd x kk => formatXK 0xC x kk
  | .drw x y n => formatXYN 0xD x y n
  | .skp x => formatXK 0xE x 0x9E
  | .sknp x => formatXK 0xE x 0xA1
  | .ldVxDt x => formatXK 0xF x 0x07
  | .ldVxK x => formatXK 0xF x 0x0A
  | .ldDtVx x => formatXK 0xF x 0x15
  | .ldStVx x => formatXK 0xF x 0x18
  | .addI x => formatXK 0xF x 0x1E
  | .ldF x => formatXK 0xF x 0x29
  | .ldB x => formatXK 0xF x 0x33
  | .ldMemVx x => formatXK 0xF x 0x55
  | .ldVxMem x => formatXK 0xF x 0x65
  | .scd n => formatXYN 0x0 0 0xC n
  | .scr => 0x00FB
  | .scl => 0x00FC
  | .low => 0x00FE
  | .high => 0x00FF
  | .ldHf x => formatXK 0xF x 0x30
  | .ldRVx x => formatXK 0xF x 0x75
  | .ldVxR x => formatXK 0xF x 0x85
  | .invalid w => w

/-- The two bytes of an instruction as memory holds them, lower address first (R60, R90). -/
def encodeBytes (i : Instr) : List Byte := [highByte (encode i), lowByte (encode i)]

/-! ### The opcode map as data (R95, R96) -/

/-- The mask and the match of the kind's row (R96): the row matches `w` when `w AND mask = match`. -/
def Instr.row : Instr → Word × Word
  | .sys _ => (0xF000, 0x0000)
  | .cls => (0xFFFF, 0x00E0)
  | .ret => (0xFFFF, 0x00EE)
  | .jp _ => (0xF000, 0x1000)
  | .call _ => (0xF000, 0x2000)
  | .seImm _ _ => (0xF000, 0x3000)
  | .sneImm _ _ => (0xF000, 0x4000)
  | .seReg _ _ => (0xF00F, 0x5000)
  | .ldImm _ _ => (0xF000, 0x6000)
  | .addImm _ _ => (0xF000, 0x7000)
  | .ldReg _ _ => (0xF00F, 0x8000)
  | .orReg _ _ => (0xF00F, 0x8001)
  | .andReg _ _ => (0xF00F, 0x8002)
  | .xorReg _ _ => (0xF00F, 0x8003)
  | .addReg _ _ => (0xF00F, 0x8004)
  | .sub _ _ => (0xF00F, 0x8005)
  | .shr _ _ => (0xF00F, 0x8006)
  | .subn _ _ => (0xF00F, 0x8007)
  | .shl _ _ => (0xF00F, 0x800E)
  | .sneReg _ _ => (0xF00F, 0x9000)
  | .ldI _ => (0xF000, 0xA000)
  | .jpV0 _ => (0xF000, 0xB000)
  | .rnd _ _ => (0xF000, 0xC000)
  | .drw _ _ _ => (0xF000, 0xD000)
  | .skp _ => (0xF0FF, 0xE09E)
  | .sknp _ => (0xF0FF, 0xE0A1)
  | .ldVxDt _ => (0xF0FF, 0xF007)
  | .ldVxK _ => (0xF0FF, 0xF00A)
  | .ldDtVx _ => (0xF0FF, 0xF015)
  | .ldStVx _ => (0xF0FF, 0xF018)
  | .addI _ => (0xF0FF, 0xF01E)
  | .ldF _ => (0xF0FF, 0xF029)
  | .ldB _ => (0xF0FF, 0xF033)
  | .ldMemVx _ => (0xF0FF, 0xF055)
  | .ldVxMem _ => (0xF0FF, 0xF065)
  | .scd _ => (0xFFF0, 0x00C0)
  | .scr => (0xFFFF, 0x00FB)
  | .scl => (0xFFFF, 0x00FC)
  | .low => (0xFFFF, 0x00FE)
  | .high => (0xFFFF, 0x00FF)
  | .ldHf _ => (0xF0FF, 0xF030)
  | .ldRVx _ => (0xF0FF, 0xF075)
  | .ldVxR _ => (0xF0FF, 0xF085)
  | .invalid _ => (0x0000, 0x0000)

/-- `kind_id`, the decoder's 6-bit output (R95, R104). No rule depends on it. -/
def Instr.kindId : Instr → BitVec 6
  | .sys _ => 0
  | .cls => 1
  | .ret => 2
  | .jp _ => 3
  | .call _ => 4
  | .seImm _ _ => 5
  | .sneImm _ _ => 6
  | .seReg _ _ => 7
  | .ldImm _ _ => 8
  | .addImm _ _ => 9
  | .ldReg _ _ => 10
  | .orReg _ _ => 11
  | .andReg _ _ => 12
  | .xorReg _ _ => 13
  | .addReg _ _ => 14
  | .sub _ _ => 15
  | .shr _ _ => 16
  | .subn _ _ => 17
  | .shl _ _ => 18
  | .sneReg _ _ => 19
  | .ldI _ => 20
  | .jpV0 _ => 21
  | .rnd _ _ => 22
  | .drw _ _ _ => 23
  | .skp _ => 24
  | .sknp _ => 25
  | .ldVxDt _ => 26
  | .ldVxK _ => 27
  | .ldDtVx _ => 28
  | .ldStVx _ => 29
  | .addI _ => 30
  | .ldF _ => 31
  | .ldB _ => 32
  | .ldMemVx _ => 33
  | .ldVxMem _ => 34
  | .scd _ => 35
  | .scr => 36
  | .scl => 37
  | .low => 38
  | .high => 39
  | .ldHf _ => 40
  | .ldRVx _ => 41
  | .ldVxR _ => 42
  | .invalid _ => 43

/-! ### The host's table words -/

/-- The two bytes, as memory holds them, of an instruction whose bits are `w` in the numbering of the opcode table: one
16-bit word, every bit at or above `nbits` zero. -/
def tableBytes (nbits w : Nat) : List Byte :=
  let v : Word := BitVec.ofNat 16 (w % 2 ^ nbits)
  [highByte v, lowByte v]

/-- The instruction the decoder reads from a table word. -/
def decodeTableWord (nbits w : Nat) : Option Instr :=
  match decodeBytes (tableBytes nbits w) with
  | .ok (i, _) => some i
  | .error _ => none

end Sys2Proof
end

