-- ==== Sys2Proof/Config.lean ====
section
/-! DEFINITION. What is fixed for the machine and never mended: the sizes the spec marks `fixed` (R6), and the one free
value, the random byte (R44). The parameters FONT_BASE, FONT_DATA, SCREEN_W and SCREEN_H, which a model takes as
arguments (R6), are `Params` of Sys2Proof/Machine/Parameters.lean. -/

namespace Sys2Proof

/-- MEM_SIZE (R6). -/
abbrev Config.memSize : Nat := 4096

/-- PROGRAM_BASE (R6): where the loader puts the first byte of a program. -/
abbrev Config.programBase : Nat := 0x200

/-- The most bytes a program image may have, 0x200 to 0xFFF (R71). -/
abbrev Config.maxImage : Nat := 3584

/-- FREE VALUE (R44, decision D11). The byte the random source gives at the draw with this number. It has no body:
nothing can be proved of its value, so a statement about `RND` holds for every byte drawn. DESIGN CHOICE of form, safe:
notes/assumptions/2.md. -/
opaque Config.randomByte : Nat → Byte

end Sys2Proof
end

