-- ==== Sys2Proof/Machine/Parameters.lean ====
section
/-! DEFINITION. The parameters of the machine, the rows of rule R6 marked `parameter`, as an argument that every operation
takes from the state it works on; and the values the spec says this hardware takes. Form: notes/assumptions/4.md. -/

namespace Sys2Proof

/-- A screen size: at least one cell, so that reducing a coordinate mod the size gives a cell of the screen (R42). -/
abbrev Size := {n : Nat // 0 < n}

/-- The parameters of rule R6. They are fixed when the machine is constructed (R34). -/
structure Params where
  /-- FONT_BASE, from 0 to 0x1B0, so that the font stays inside 0x000 to 0x1FF (R6, R35) -/
  fontBase : Fin 0x1B1
  /-- FONT_DATA, 16 glyphs of 5 bytes (R6, R36) -/
  fontData : Vector Byte 80
  /-- SCREEN_W (R6, R40) -/
  screenW : Size
  /-- SCREEN_H (R6, R40) -/
  screenH : Size
  deriving DecidableEq, Repr

/-- The sixteen glyphs, digit 0 first, top row first (R36). -/
def standardGlyphs : List (List Byte) :=
  [[0xF0, 0x90, 0x90, 0x90, 0xF0], [0x20, 0x60, 0x20, 0x20, 0x70], [0xF0, 0x10, 0xF0, 0x80, 0xF0],
   [0xF0, 0x10, 0xF0, 0x10, 0xF0], [0x90, 0x90, 0xF0, 0x10, 0x10], [0xF0, 0x80, 0xF0, 0x10, 0xF0],
   [0xF0, 0x80, 0xF0, 0x90, 0xF0], [0xF0, 0x10, 0x20, 0x40, 0x40]] ++
  [[0xF0, 0x90, 0xF0, 0x90, 0xF0], [0xF0, 0x90, 0xF0, 0x10, 0xF0], [0xF0, 0x90, 0xF0, 0x90, 0x90],
   [0xE0, 0x90, 0xE0, 0x90, 0xE0], [0xF0, 0x80, 0x80, 0x80, 0xF0], [0xE0, 0x90, 0x90, 0x90, 0xE0],
   [0xF0, 0x80, 0xF0, 0x80, 0xF0], [0xF0, 0x80, 0xF0, 0x80, 0x80]]

/-- The values this hardware takes (R6, decisions D8 and D19): the font at 0x000 with the glyphs of R36 one after another
in digit order (R35), a screen of 64 by 32. -/
def Params.standard : Params where
  fontBase := 0x000
  fontData := ⟨standardGlyphs.flatten.toArray, by decide⟩
  screenW := ⟨64, by decide⟩
  screenH := ⟨32, by decide⟩

/-- The reset contents of memory (R45): FONT_DATA from FONT_BASE, zero elsewhere. This is what an address that no entry of
`mem` lists reads as. -/
def Params.initialByte (p : Params) (a : Nat) : Byte :=
  if h : p.fontBase.val ≤ a ∧ a < p.fontBase.val + 80 then p.fontData[a - p.fontBase.val] else 0

end Sys2Proof
end

