-- ==== Sys2Proof/Machine/State.lean ====
section
/-! DEFINITION. The state of the machine (10_state.md), its value at reset (R45), and the reasons a request can end
without a next state. Every field is plain data. -/

namespace Sys2Proof.Machine

/-- `MEM` (R31): the bytes that differ from the reset contents, by rising address (`Memory.wf`). -/
abbrev Memory := List Host.Cell

/-- A display cell `(x, y)`, `x` from the left, `y` from the top (R40). -/
abbrev Cell := Nat × Nat

/-- `DISP` (R40): the cells that are on, line by line (`Display.wf`). -/
abbrev Display := List Cell

/-- The four fatal conditions (R230). -/
inductive Cause where
  /-- raised by `INVALID`, always (R231) -/
  | invalidInstruction
  /-- raised by the eight extended kinds, always (R234) -/
  | unimplementedInstruction
  /-- raised by `CALL` when `SP = 16` (R232) -/
  | stackOverflow
  /-- raised by `RET` when `SP = 0` (R233) -/
  | stackUnderflow
  deriving DecidableEq, Repr

/-- Everything the spec gives the machine (10_state.md section 1), the two collaborators' state included; the parameters it
is constructed with, which are no state of the spec's (R34) and which nothing changes; and one counter of the model's own
(`draws`). -/
structure State where
  /-- the parameters of R6, fixed at construction; kept here so that every operation takes them as an argument
  (notes/assumptions/4.md) -/
  params : Params
  /-- `V[0..15]` (R20); `V[15]` is the flag register `VF` (R21) -/
  v : Vector Byte 16
  /-- the address register `I` (R25) -/
  i : Addr
  /-- the program counter (R26) -/
  pc : Addr
  /-- the stack pointer, 0 to 16 (R28) -/
  sp : Fin 17
  /-- `STACK[1..16]`, entry `j` at index `j - 1` (R28) -/
  stack : Vector Addr 16
  /-- the delay timer `DT` (R30) -/
  dt : Byte
  /-- the sound timer `ST` (R30) -/
  st : Byte
  /-- `MEM[0..4095]` (R31) -/
  mem : Memory
  /-- `HALT` of the fault latch (R32) -/
  halt : Bool
  /-- `CAUSE` of the fault latch (R32, R230) -/
  cause : BitVec 3
  /-- `FADDR` of the fault latch (R32) -/
  faddr : Addr
  /-- `FWORD` of the fault latch (R32) -/
  fword : Word
  /-- `DISP[x][y]` (R40), the display collaborator's -/
  disp : Display
  /-- `KEY[0..15]` (R43), the input collaborator's; no step writes it -/
  keys : Vector Bool 16
  /-- the model's own: how many random bytes have been drawn (R44; notes/assumptions/2.md) -/
  draws : Nat
  deriving DecidableEq, Repr

/-- Why a run is reported as a fault. -/
inductive Fault where
  /-- The halted state with its diagnostic (R32, R235). Raised by `State.report` and `surface` of
  Machine/HostActions.lean, never by `step`: a step of a halted machine is a next state with nothing changed (R135), and
  a halted state counts as a fault, never as final (R135). Safe: no run is called finished because of it. -/
  | halted (cause : BitVec 3) (address : Addr) (word : Word)
  deriving DecidableEq, Repr

/-- Why a request is refused. -/
inductive Refusal where
  /-- An instruction that has no meaning yet. Raised by no arm of `exec`: every kind has its meaning. Safe. -/
  | notModelled (mnemonic : String)
  /-- A program image of more than 3584 bytes (R71, decision D26). Raised by `System.act` at a load. Safe: the spec says
  a model refuses it. -/
  | imageTooLong
  /-- A load that is not the one load between reset and the first step (R77, R136). Raised by `System.act`. Safe: the
  host has no such move. -/
  | loadOutOfTurn
  deriving DecidableEq, Repr

/-- The three outcomes of an instruction. -/
abbrev Result := Host.Outcome State Fault Refusal

/-- A machine with the given parameters right after reset (R45, R260); a model takes the parameters as arguments and may
default them to the values shown (R6). The keys and the draw counter have no reset value in the spec:
notes/assumptions/1.md and 2.md. -/
def State.resetWith (p : Params := Params.standard) : State where
  params := p
  v := Vector.replicate 16 0
  i := 0
  pc := 0x200
  sp := 0
  stack := Vector.replicate 16 0
  dt := 0
  st := 0
  mem := []
  halt := false
  cause := 0
  faddr := 0
  fword := 0
  disp := []
  keys := Vector.replicate 16 false
  draws := 0

/-- This hardware right after reset: its parameters are those of `Params.standard` (R6, R45). -/
def State.reset : State := State.resetWith

end Sys2Proof.Machine
end

