-- ==== Sys2Proof/Machine/Display.lean ====
section
/-! DEFINITION. The display collaborator's contract (R40 to R42) on the list of cells that are on. -/

namespace Sys2Proof.Machine

/-- `DISP[x][y]` (R40). -/
def Display.cell (d : Display) (c : Cell) : Bool := d.contains c

/-- The order of the list: line by line from the top, left to right. -/
def Cell.before (c e : Cell) : Bool := decide (c.2 < e.2) || (decide (c.2 = e.2) && decide (c.1 < e.1))

/-- The display after `DisplayToggle(x, y)` (R42); the answer of the call is `Display.cell` before it. -/
def Display.toggle : Display → Cell → Display
  | [], c => [c]
  | e :: rest, c => if c = e then rest else if Cell.before c e then c :: e :: rest else e :: Display.toggle rest c

/-- The display after `DisplayClear()` (R41). -/
def Display.clear : Display := []

/-- A sprite blit as the sequence of its toggles, with the collision so far (R191): a cell that was on is now off. -/
def Display.blit : List Cell → Display → Bool → Display × Bool
  | [], d, hit => (d, hit)
  | c :: cs, d, hit => Display.blit cs (Display.toggle d c) (hit || Display.cell d c)

/-- The canonical form: cells of the screen (R40), each once, in order. -/
def Display.wf (p : Params) : Display → Bool
  | [] => true
  | c :: rest =>
    decide (c.1 < p.screenW.val) && decide (c.2 < p.screenH.val) && rest.all (fun e => Cell.before c e) &&
      Display.wf p rest

end Sys2Proof.Machine
end

