-- ==== Sys2Proof/Machine/Flags.lean ====
section
/-! DEFINITION. Every flag the spec defines (R24, R173) and the byte written to `VF` for it (R23). -/

namespace Sys2Proof.Machine

/-- A flag as `VF` holds it: 0 or 1 (R23). -/
def flagByte (b : Bool) : Byte := if b then 1 else 0

/-- `ADD_REG`: 1 if the sum exceeds 255 (R166). -/
def carryOut (x y : Byte) : Bool := decide (255 < x.toNat + y.toNat)

/-- `SUB` with minuend `x`, `SUBN` with the operands exchanged: 1 means no borrow (R24, R167, R168). -/
def noBorrow (x y : Byte) : Bool := decide (y.toNat ≤ x.toNat)

/-- `SHR`: the bit shifted out, bit 0 (R169). -/
def bitOutRight (t : Byte) : Bool := t.getLsbD 0

/-- `SHL`: the bit shifted out, bit 7 (R170). -/
def bitOutLeft (t : Byte) : Bool := t.getLsbD 7

end Sys2Proof.Machine
end

