-- ==== Sys2Proof/Machine/Memory.lean ====
section
/-! DEFINITION. Memory as a canonical list (R31): one byte read, one byte written, and the form that makes equal memories
equal lists. Addresses are reduced mod 4096 here and nowhere else (R63, R64, R65). The parameters give the reset contents
(R45). -/

namespace Sys2Proof.Machine

/-- The byte the list gives an address: its entry, or the reset contents (R46). -/
def Memory.lookup (p : Params) : Memory → Nat → Byte
  | [], a => p.initialByte a
  | (b, u) :: rest, a => if a = b then u else Memory.lookup p rest a

/-- `MemRead(addr, 1)` (R63). -/
def Memory.read (p : Params) (m : Memory) (a : Nat) : Byte := Memory.lookup p m (a % Config.memSize)

/-- The list with the byte at one address changed, in canonical form. -/
def Memory.put (p : Params) : Memory → Nat → Byte → Memory
  | [], a, u => if u = p.initialByte a then [] else [(a, u)]
  | (b, w) :: rest, a, u =>
    if a < b then if u = p.initialByte a then (b, w) :: rest else (a, u) :: (b, w) :: rest
    else if a = b then if u = p.initialByte a then rest else (a, u) :: rest
    else (b, w) :: Memory.put p rest a u

/-- `MemWrite(addr, 1, v)` (R64). -/
def Memory.write (p : Params) (m : Memory) (a : Nat) (u : Byte) : Memory := Memory.put p m (a % Config.memSize) u

/-- The canonical form: addresses below 4096 and strictly rising, no entry equal to the reset contents. -/
def Memory.wf (p : Params) : Memory → Bool
  | [] => true
  | (a, u) :: rest =>
    decide (a < Config.memSize) && u != p.initialByte a && rest.all (fun c => decide (a < c.1)) && Memory.wf p rest

end Sys2Proof.Machine
end

