-- ==== Sys2Proof/Machine/Ops.lean ====
section
/-! DEFINITION. The named operations over the state, the pseudocode primitives of rule R9. Every meaning reads and writes
the state through these. -/

namespace Sys2Proof.Machine

/-! ### Registers (R20, R21, R25, R26, R30) -/

/-- `V[i]`. -/
def State.reg (s : State) (x : Reg) : Byte := s.v[x]

/-- `V[i] <- b`. -/
def State.setReg (s : State) (x : Reg) (b : Byte) : State := { s with v := s.v.set x b }

/-- `VF <- flag`, the last write of a flag-defining instruction (R11, R23). -/
def State.setFlag (s : State) (b : Bool) : State := s.setReg flagReg (flagByte b)

/-- `I <- a`. -/
def State.setI (s : State) (a : Addr) : State := { s with i := a }

/-- `PC <- a`. -/
def State.setPc (s : State) (a : Addr) : State := { s with pc := a }

/-- `DT <- b`. -/
def State.setDt (s : State) (b : Byte) : State := { s with dt := b }

/-- `ST <- b`. -/
def State.setSt (s : State) (b : Byte) : State := { s with st := b }

/-! ### The program counter (R27) -/

/-- The sequential advance, `PC <- (a + 2) mod 4096` (R27). -/
def State.advance (s : State) : State := s.setPc (s.pc + 2)

/-- The skip: `PC <- (a + 4) mod 4096` if the condition holds, else `(a + 2) mod 4096` (R27, R133). -/
def State.skipIf (s : State) (c : Bool) : State := s.setPc (s.pc + if c then 4 else 2)

/-! ### The call stack (R28, R29) -/

/-- `STACK[j]`, `1 <= j <= 16` (R28). -/
def State.stackEntry (s : State) (j : Nat) : Option Addr := if 1 ≤ j then s.stack[j - 1]? else none

/-- `SP <- SP + 1; STACK[SP] <- a`, or none when sixteen addresses are held (R29). -/
def State.push (s : State) (a : Addr) : Option State :=
  if h : s.sp.val < 16 then
    some { s with sp := ⟨s.sp.val + 1, by omega⟩, stack := s.stack.set s.sp.val a }
  else none

/-- The address `STACK[SP]` and the state after `SP <- SP - 1`, or none when the stack is empty (R29). The popped entry
keeps its value. -/
def State.pop (s : State) : Option (Addr × State) :=
  if h : 0 < s.sp.val then
    some (s.stack[s.sp.val - 1], { s with sp := ⟨s.sp.val - 1, by omega⟩ })
  else none

/-! ### Memory (R60, R63, R64, R67) -/

/-- `MemRead(addr, 1)`. -/
def State.readMem (s : State) (a : Nat) : Byte := s.mem.read s.params a

/-- `MemWrite(addr, 1, b)`. -/
def State.writeMem (s : State) (a : Nat) (b : Byte) : State := { s with mem := s.mem.write s.params a b }

/-- Bytes stored at consecutive addresses, the first at `a`, in ascending order (R67). -/
def State.writeBytes : State → Nat → List Byte → State
  | s, _, [] => s
  | s, a, b :: bs => State.writeBytes (s.writeMem a b) (a + 1) bs

/-- `Fetch(PC)`: the byte at the lower address is the high byte (R60); the second address wraps (R65). -/
def State.fetch (s : State) : Word := wordOfBytes (s.readMem s.pc.toNat) (s.readMem (s.pc.toNat + 1))

/-! ### Collaborators (R40 to R44) -/

/-- `DisplayClear()` (R41). -/
def State.clearDisplay (s : State) : State := { s with disp := Display.clear }

/-- The display replaced, as a blit leaves it (R191). -/
def State.setDisplay (s : State) (d : Display) : State := { s with disp := d }

/-- `KeyDown(k)` (R43). -/
def State.keyDown (s : State) (k : Fin 16) : Bool := s.keys[k]

/-- `FirstKeyDown()`: the least index that is down (R43). -/
def State.firstKeyDown (s : State) : Option (Fin 16) := (List.finRange 16).find? fun k => s.keyDown k

/-- `RandomByte()`: the byte of this draw, a free value (R44). -/
def State.randomByte (s : State) : Byte := Config.randomByte s.draws

/-- The state after one draw: the next draw is a fresh one (R44, R171). -/
def State.countDraw (s : State) : State := { s with draws := s.draws + 1 }

/-! ### Taking a fatal condition, and leaving the halted state (R230, R235, R236, R260) -/

/-- The code of a fatal condition (R230). -/
def Cause.code : Cause → BitVec 3
  | .invalidInstruction => 1
  | .unimplementedInstruction => 2
  | .stackOverflow => 3
  | .stackUnderflow => 4

/-- `raise Fatal(cause)` by the instruction word `w` at `PC`: the fault latch is filled and nothing else changes (R235). -/
def State.raiseFatal (s : State) (c : Cause) (w : Word) : State :=
  { s with halt := true, cause := c.code, faddr := s.pc, fword := w }

/-- The outcome of an instruction that raises a fatal condition: a next state, its own word in `FWORD` (R235). -/
def fatal (c : Cause) (i : Instr) (s : State) : Result := .next (s.raiseFatal c (encode i))

/-- The host's reset, the only way out of the halted state (R236, R260): the reset state of the same parameters (R34), with the keys
not touched (R45) and the draw counter, which belongs to the environment, running on (R47; notes/assumptions/3.md). There is no return from
an exception (R239). -/
def State.hostReset (s : State) : State := { State.resetWith s.params with keys := s.keys, draws := s.draws }

end Sys2Proof.Machine
end

