-- ==== Sys2Proof/Machine/Operands.lean ====
section
/-! DEFINITION. The operand forms beyond a plain register, immediate or address: computed addresses (R65, R186), the key
index (R193), the decimal digits (R183), the register blocks (R184, R185) and the cells of a sprite (R191). -/

namespace Sys2Proof.Machine

/-- `(NNN + V[0]) mod 4096` (R148). -/
def offsetTarget (nnn : Addr) (b : Byte) : Addr := nnn + b.setWidth 12

/-- `(I + V[X]) mod 4096` (R181). -/
def indexPlus (a : Addr) (b : Byte) : Addr := a + b.setWidth 12

/-- `(FONT_BASE + 5 * V[X]) mod 4096`, the whole byte used (R182, decision D21). -/
def glyphAddr (p : Params) (b : Byte) : Addr := BitVec.ofNat 12 (p.fontBase.val + 5 * b.toNat)

/-- The key asked for, `V[X] mod 16` (R193). -/
def keyIndex (b : Byte) : Fin 16 := Fin.ofNat 16 b.toNat

/-- The register value of a key index (R195). -/
def keyByte (k : Fin 16) : Byte := BitVec.ofNat 8 k.val

/-- Hundreds, tens and ones, one plain number a byte (R183). -/
def bcdDigits (b : Byte) : List Byte :=
  [BitVec.ofNat 8 (b.toNat / 100), BitVec.ofNat 8 (b.toNat / 10 % 10), BitVec.ofNat 8 (b.toNat % 10)]

/-- `V[0..X]`, the registers of a block store in ascending order (R184). -/
def State.regBlock (s : State) (x : Reg) : List Byte := s.v.toList.take (x.val + 1)

/-- `V[i] <- MemRead(I + i, 1)` for `i` from 0 to `X`; since no register is a source, the order of the loop cannot be
observed (R185). -/
def State.loadBlock (s : State) (x : Reg) : State :=
  { s with v := Vector.ofFn fun k : Fin 16 => if k ≤ x then s.readMem (s.i.toNat + k.val) else s.reg k }

/-- The cell of column `j` of row `r` of a sprite at `(x0, y0)`, each coordinate reduced by itself (R191). -/
def spriteCell (p : Params) (x0 y0 r j : Nat) : Cell := ((x0 + j) % p.screenW.val, (y0 + r) % p.screenH.val)

/-- The cells one row byte toggles, leftmost first; bit 7 is the leftmost (R191, decision D9). -/
def spriteRow (p : Params) (x0 y0 r : Nat) (b : Byte) : List Cell :=
  (List.range 8).filterMap fun j => if b.getLsbD (7 - j) then some (spriteCell p x0 y0 r j) else none

/-- The cells a sprite of `n` rows at `I` toggles, in the order of the loops (R191). -/
def State.spriteCells (s : State) (x0 y0 n : Nat) : List Cell :=
  (List.range n).flatMap fun r => spriteRow s.params x0 y0 r (s.readMem (s.i.toNat + r))

end Sys2Proof.Machine
end

