-- ==== Sys2Proof/Machine/ControlFlow.lean ====
section
/-! DEFINITION. Control flow (41_control_flow.md): `SYS`, `RET`, `JP`, `CALL`, the register skips, `JP_V0`. -/

namespace Sys2Proof.Machine

/-- `SYS addr` (R140): ignored, no state change but the advance. -/
def execSys (_nnn : Addr) (s : State) : Result := .next s.advance

/-- `RET` (R141): fatal on an empty stack (R233), else to the popped address exactly (R134). -/
def execRet (s : State) : Result :=
  match s.pop with
  | none => fatal .stackUnderflow .ret s
  | some (t, s') => .next (s'.setPc t)

/-- `JP addr` (R142). -/
def execJp (nnn : Addr) (s : State) : Result := .next (s.setPc nnn)

/-- `CALL addr` (R143): fatal on a full stack (R232), else pushes the address after itself (R134). -/
def execCall (nnn : Addr) (s : State) : Result :=
  match s.push (s.pc + 2) with
  | none => fatal .stackOverflow (.call nnn) s
  | some s' => .next (s'.setPc nnn)

/-- `SE Vx, byte` (R144). -/
def execSeImm (x : Reg) (kk : Byte) (s : State) : Result := .next (s.skipIf (s.reg x == kk))

/-- `SNE Vx, byte` (R145). -/
def execSneImm (x : Reg) (kk : Byte) (s : State) : Result := .next (s.skipIf (s.reg x != kk))

/-- `SE Vx, Vy` (R146). -/
def execSeReg (x y : Reg) (s : State) : Result := .next (s.skipIf (s.reg x == s.reg y))

/-- `SNE Vx, Vy` (R147). -/
def execSneReg (x y : Reg) (s : State) : Result := .next (s.skipIf (s.reg x != s.reg y))

/-- `JP V0, addr` (R148): always register 0. -/
def execJpV0 (nnn : Addr) (s : State) : Result := .next (s.setPc (offsetTarget nnn (s.reg 0)))

end Sys2Proof.Machine
end

