-- ==== Sys2Proof/Machine/DisplayInput.lean ====
section
/-! DEFINITION. Display, keypad and timers (44_display_input_timers.md). -/

namespace Sys2Proof.Machine

/-- `CLS` (R190). -/
def execCls (s : State) : Result := .next s.clearDisplay.advance

/-- `DRW Vx, Vy, nibble` (R191): the old `V[X]` and `V[Y]` are the place, the collision goes to `VF` last. -/
def execDrw (x y : Reg) (n : Nibble) (s : State) : Result :=
  let out := Display.blit (s.spriteCells (s.reg x).toNat (s.reg y).toNat n.toNat) s.disp false
  .next ((s.setDisplay out.1).setFlag out.2).advance

/-- `SKP Vx` (R192). -/
def execSkp (x : Reg) (s : State) : Result := .next (s.skipIf (s.keyDown (keyIndex (s.reg x))))

/-- `SKNP Vx` (R194). -/
def execSknp (x : Reg) (s : State) : Result := .next (s.skipIf (!s.keyDown (keyIndex (s.reg x))))

/-- `LD Vx, K` (R195): the least key that is down, or the hold, in which nothing changes (decision D5). -/
def execLdVxK (x : Reg) (s : State) : Result :=
  match s.firstKeyDown with
  | some k => .next (s.setReg x (keyByte k)).advance
  | none => .next s

/-- `LD Vx, DT` (R196). -/
def execLdVxDt (x : Reg) (s : State) : Result := .next (s.setReg x s.dt).advance

/-- `LD DT, Vx` (R197). -/
def execLdDtVx (x : Reg) (s : State) : Result := .next (s.setDt (s.reg x)).advance

/-- `LD ST, Vx` (R198). -/
def execLdStVx (x : Reg) (s : State) : Result := .next (s.setSt (s.reg x)).advance

end Sys2Proof.Machine
end

