-- ==== Sys2Proof/Machine/Extended.lean ====
section
/-! DEFINITION. The kinds that are fatal when executed (45_invalid_extended.md): `INVALID` with cause 1 (R210), the eight
recognised-but-unimplemented kinds with cause 2, each in an arm of its own (R132, R219). -/

namespace Sys2Proof.Machine

/-- `SCD nibble` (R211, R219). -/
def execScd (n : Nibble) (s : State) : Result := fatal .unimplementedInstruction (.scd n) s

/-- `SCR` (R212, R219). -/
def execScr (s : State) : Result := fatal .unimplementedInstruction .scr s

/-- `SCL` (R213, R219). -/
def execScl (s : State) : Result := fatal .unimplementedInstruction .scl s

/-- `LOW` (R214, R219). -/
def execLow (s : State) : Result := fatal .unimplementedInstruction .low s

/-- `HIGH` (R215, R219). -/
def execHigh (s : State) : Result := fatal .unimplementedInstruction .high s

/-- `LD HF, Vx` (R216, R219). -/
def execLdHf (x : Reg) (s : State) : Result := fatal .unimplementedInstruction (.ldHf x) s

/-- `LD R, Vx` (R217, R219). -/
def execLdRVx (x : Reg) (s : State) : Result := fatal .unimplementedInstruction (.ldRVx x) s

/-- `LD Vx, R` (R218, R219). -/
def execLdVxR (x : Reg) (s : State) : Result := fatal .unimplementedInstruction (.ldVxR x) s

/-- `INVALID` (R210, R231). -/
def execInvalid (w : Word) (s : State) : Result := fatal .invalidInstruction (.invalid w) s

end Sys2Proof.Machine
end

