-- ==== Sys2Proof/Machine/IndexMemory.lean ====
section
/-! DEFINITION. The address register and memory transfer (43_index_memory.md). Only `LD_I`, `ADD_I` and `LD_F` write `I`
(R25). -/

namespace Sys2Proof.Machine

/-- `LD I, addr` (R180). -/
def execLdI (nnn : Addr) (s : State) : Result := .next (s.setI nnn).advance

/-- `ADD I, Vx` (R181): wraps mod 4096, no flag. -/
def execAddI (x : Reg) (s : State) : Result := .next (s.setI (indexPlus s.i (s.reg x))).advance

/-- `LD F, Vx` (R182). -/
def execLdF (x : Reg) (s : State) : Result := .next (s.setI (glyphAddr s.params (s.reg x))).advance

/-- `LD B, Vx` (R183). -/
def execLdB (x : Reg) (s : State) : Result := .next (s.writeBytes s.i.toNat (bcdDigits (s.reg x))).advance

/-- `LD [I], Vx` (R184): `X + 1` bytes stored, `I` unchanged (decision D22). -/
def execLdMemVx (x : Reg) (s : State) : Result := .next (s.writeBytes s.i.toNat (s.regBlock x)).advance

/-- `LD Vx, [I]` (R185): `X + 1` registers loaded, `I` unchanged (decision D22). -/
def execLdVxMem (x : Reg) (s : State) : Result := .next (s.loadBlock x).advance

end Sys2Proof.Machine
end

