-- ==== Sys2Proof/Machine/LoadAlu.lean ====
section
/-! DEFINITION. Loads, the ALU and random (42_load_alu.md). Operands are read from `s`, the result is written, the flag is
written last (R11), and the counter advances. -/

namespace Sys2Proof.Machine

/-- `LD Vx, byte` (R160). -/
def execLdImm (x : Reg) (kk : Byte) (s : State) : Result := .next (s.setReg x kk).advance

/-- `ADD Vx, byte` (R161): wraps mod 256, no flag. -/
def execAddImm (x : Reg) (kk : Byte) (s : State) : Result := .next (s.setReg x (s.reg x + kk)).advance

/-- `LD Vx, Vy` (R162). -/
def execLdReg (x y : Reg) (s : State) : Result := .next (s.setReg x (s.reg y)).advance

/-- `OR Vx, Vy` (R163): no flag. -/
def execOrReg (x y : Reg) (s : State) : Result := .next (s.setReg x (s.reg x ||| s.reg y)).advance

/-- `AND Vx, Vy` (R164): no flag. -/
def execAndReg (x y : Reg) (s : State) : Result := .next (s.setReg x (s.reg x &&& s.reg y)).advance

/-- `XOR Vx, Vy` (R165): no flag. -/
def execXorReg (x y : Reg) (s : State) : Result := .next (s.setReg x (s.reg x ^^^ s.reg y)).advance

/-- `ADD Vx, Vy` (R166). -/
def execAddReg (x y : Reg) (s : State) : Result :=
  .next ((s.setReg x (s.reg x + s.reg y)).setFlag (carryOut (s.reg x) (s.reg y))).advance

/-- `SUB Vx, Vy` (R167). -/
def execSub (x y : Reg) (s : State) : Result :=
  .next ((s.setReg x (s.reg x - s.reg y)).setFlag (noBorrow (s.reg x) (s.reg y))).advance

/-- `SUBN Vx, Vy` (R168): the operands exchanged, the destination still `V[X]`. -/
def execSubn (x y : Reg) (s : State) : Result :=
  .next ((s.setReg x (s.reg y - s.reg x)).setFlag (noBorrow (s.reg y) (s.reg x))).advance

/-- `SHR Vx` (R169): `V[X]` in place by one; `Y` is neither read nor written. -/
def execShr (x _y : Reg) (s : State) : Result :=
  .next ((s.setReg x (s.reg x >>> 1)).setFlag (bitOutRight (s.reg x))).advance

/-- `SHL Vx` (R170): `V[X]` in place by one; `Y` is neither read nor written. -/
def execShl (x _y : Reg) (s : State) : Result :=
  .next ((s.setReg x (s.reg x <<< 1)).setFlag (bitOutLeft (s.reg x))).advance

/-- `RND Vx, byte` (R171): one draw, ANDed with the immediate. -/
def execRnd (x : Reg) (kk : Byte) (s : State) : Result :=
  .next (s.countDraw.setReg x (s.randomByte &&& kk)).advance

end Sys2Proof.Machine
end

