-- ==== Sys2Proof/Machine/Cycle.lean ====
section
/-! DEFINITION. The step cycle (R130): fetch, decode, execute; a halted machine does nothing (R135). -/

namespace Sys2Proof.Machine

/-- One step request (R130). When `HALT = 1` it changes nothing: no fetch, no decode, no write (R135). -/
def cycle (s : State) : Result := if s.halt then .next s else exec (decode s.fetch) s

/-- The state with the bytes of a table word stored where the next fetch reads them (R60, R131). -/
def placeWord (s : State) (nbits w : Nat) : State := s.writeBytes s.pc.toNat (tableBytes nbits w)

end Sys2Proof.Machine
end

