-- ==== Sys2Proof/Machine/Step.lean ====
section
/-! DEFINITION. The step under the host's name, and the host's way to place one instruction. Both only call
Machine/Cycle.lean. -/

namespace Sys2Proof.Machine

/-- One step of the machine (R130). -/
def step (s : State) : Host.Outcome State Fault Refusal := cycle s

/-- The state with the instruction of a table word at `PC`; it stands for the host's program load (R71, R263;
notes/assumptions/7.md). -/
def State.withFetchWord (s : State) (nbits w : Nat) : State := placeWord s nbits w

end Sys2Proof.Machine
end

