-- ==== Sys2Proof/Machine/HostActions.lean ====
section
/-! DEFINITION. What the host and the environment do between steps (R136 to R138, R71, R43), and how a halted state is
reported (R135, R236). `step` alone never ticks a timer and never changes a key: a claim about a run with ticks and keys
is a claim about `System.actAll` (notes/assumptions/8.md). -/

namespace Sys2Proof.Machine

/-- Where the host stands with the one program load it has (R136 (b), R77). -/
inductive Phase where
  /-- after reset, nothing loaded, no step requested -/
  | fresh
  /-- loaded, no step requested -/
  | loaded
  /-- a step has been requested since reset -/
  | running
  deriving DecidableEq, Repr

/-- The machine with the host's load protocol. -/
structure System where
  /-- the machine -/
  core : State
  /-- whether a load may still come -/
  phase : Phase
  deriving DecidableEq, Repr

/-- The moves of the host and the environment (R136); the reads (R136 (e), (f)) are the fields `dt` and `st` and
`State.report`. To stop requesting steps (R136 (g)) is to make no further move. -/
inductive Action where
  /-- (a) reset (R260) -/
  | reset
  /-- (b) load a program image (R71) -/
  | load (image : List Byte)
  /-- (c) request a step (R130) -/
  | step
  /-- (d) tick the timers (R137) -/
  | tick
  /-- (e) set `DT` (R138) -/
  | setDelay (b : Byte)
  /-- (e) set `ST` (R138) -/
  | setSound (b : Byte)
  /-- the environment changes the key states (R43) -/
  | keys (k : Vector Bool 16)
  deriving DecidableEq, Repr

/-- One timer tick: a timer at 0 stays 0 (R137, decision D10). -/
def timerDown (b : Byte) : Byte := if b = 0 then 0 else b - 1

/-- `tick()` (R137). -/
def State.tick (s : State) : State := (s.setDt (timerDown s.dt)).setSt (timerDown s.st)

/-- The environment's new key states (R43). -/
def State.setKeys (s : State) (k : Vector Bool 16) : State := { s with keys := k }

/-- The program image placed verbatim from 0x200 (R71). -/
def State.loadImage (s : State) (image : List Byte) : State := s.writeBytes Config.programBase image

/-- A host or environment move (R136). An image of more than 3584 bytes and a load out of turn have no meaning and are
refused (R71, R77). -/
def System.act : Action → System → Host.Outcome System Fault Refusal
  | .reset, y => .next ⟨y.core.hostReset, .fresh⟩
  | .load image, ⟨s, .fresh⟩ =>
    if image.length ≤ Config.maxImage then .next ⟨s.loadImage image, .loaded⟩ else .refused .imageTooLong
  | .load _, ⟨_, .loaded⟩ => .refused .loadOutOfTurn
  | .load _, ⟨_, .running⟩ => .refused .loadOutOfTurn
  | .step, y =>
    match Machine.step y.core with
    | .next t => .next ⟨t, .running⟩
    | .fault r => .fault r
    | .refused r => .refused r
  | .tick, y => .next { y with core := y.core.tick }
  | .setDelay b, y => .next { y with core := y.core.setDt b }
  | .setSound b, y => .next { y with core := y.core.setSt b }
  | .keys k, y => .next { y with core := y.core.setKeys k }

/-- A sequence of moves, in any interleaving (R136), up to the first that is refused. -/
def System.actAll : List Action → System → Host.Outcome System Fault Refusal
  | [], y => .next y
  | a :: as, y =>
    match y.act a with
    | .next z => z.actAll as
    | .fault r => .fault r
    | .refused r => .refused r

/-- The host's read of the fault latch (R136 (f), R32): the diagnostic of a halted machine. -/
def State.report (s : State) : Option Fault :=
  if s.halt then some (.halted s.cause s.faddr s.fword) else none

/-- What the host makes of the outcome of a step: it must surface a halted state and stop (R236), since a halted state
counts as a fault and never as final (R135). -/
def surface : Result → Result
  | .next t =>
    match t.report with
    | some r => .fault r
    | none => .next t
  | .fault r => .fault r
  | .refused r => .refused r

end Sys2Proof.Machine
end

