-- ==== Sys2Proof/Safety.lean ====
section
/-! DEFINITION. What a safe state and a safe run are, and the invariant of the machine. -/

namespace Sys2Proof.Machine

/-- The fatal condition that executing `i` in `s` raises, from the table of rule R230; none for every other kind and case
(R237, R248). -/
def fatalCause (i : Instr) (s : State) : Option Cause :=
  match i with
  | .invalid _ => some .invalidInstruction
  | .scd _ | .scr | .scl | .low | .high | .ldHf _ | .ldRVx _ | .ldVxR _ => some .unimplementedInstruction
  | .call _ => if s.sp.val = 16 then some .stackOverflow else none
  | .ret => if s.sp.val = 0 then some .stackUnderflow else none
  | .sys _ | .cls | .jp _ | .seImm _ _ | .sneImm _ _ | .seReg _ _ | .ldImm _ _ | .addImm _ _ | .ldReg _ _ | .orReg _ _
  | .andReg _ _ | .xorReg _ _ | .addReg _ _ | .sub _ _ | .shr _ _ | .subn _ _ | .shl _ _ | .sneReg _ _ | .ldI _
  | .jpV0 _ | .rnd _ _ | .drw _ _ _ | .skp _ | .sknp _ | .ldVxDt _ | .ldVxK _ | .ldDtVx _ | .ldStVx _ | .addI _
  | .ldF _ | .ldB _ | .ldMemVx _ | .ldVxMem _ => none

/-- A safe state: not halted. A halted state counts as a fault (R135). -/
def State.safe (s : State) : Bool := !s.halt

/-- The fault latch is consistent (R33, R235): clear when not halted; when halted it names the instruction at `PC`, and
its code is that of the condition the recorded word raises. -/
def State.latchOk (s : State) : Bool :=
  if s.halt then
    s.faddr == s.pc && (fatalCause (decode s.fword) s).map Cause.code == some s.cause
  else s.cause == 0 && s.faddr == 0 && s.fword == 0

/-- The invariant: memory and display in canonical form, the fault latch consistent. -/
def State.inv (s : State) : Bool := s.mem.wf s.params && s.disp.wf s.params && s.latchOk

/-- What the host and the environment can bring about from power-on, with any parameters, any key states and any number of
bytes already drawn (R6, R136, R43, R44). -/
inductive Reachable : System → Prop where
  /-- the machine as initialised (R45), with whatever the environment holds -/
  | powerOn (s : State) : Reachable ⟨s.hostReset, .fresh⟩
  /-- one more move -/
  | move (a : Action) (y z : System) (hy : Reachable y) (ha : y.act a = .next z) : Reachable z

end Sys2Proof.Machine
end

