-- ==== Sys2Proof/Certificates/Slice0/Obligations.lean ====
section
/-! DEFINITION. The statements for the provers, from the numbered rules of spec/. The words of `Sys2Proof.Spec` are what
the statements share: the frame of an instruction and the tables of the rules, written anew from the spec and not from the
meanings. -/

namespace Sys2Proof.Spec

open Sys2Proof.Machine

/-- A part of the state other than the registers and the program counter. -/
inductive Part where
  | index | stack | delay | sound | mem | latch | display | draws
  deriving DecidableEq, Repr

/-- What an instruction leaves: every register not in `regs`, every part not in `parts`, and always the keys (R43) and the
parameters (R34). The program counter may change. Memory and display are compared by what a read of one byte and of one cell gives. -/
def Frame (parts : List Part) (regs : List Reg) (s t : State) : Prop :=
  (∀ k, k ∉ regs → t.reg k = s.reg k) ∧
  (Part.index ∉ parts → t.i = s.i) ∧
  (Part.stack ∉ parts → t.sp = s.sp ∧ ∀ j, t.stackEntry j = s.stackEntry j) ∧
  (Part.delay ∉ parts → t.dt = s.dt) ∧
  (Part.sound ∉ parts → t.st = s.st) ∧
  (Part.mem ∉ parts → ∀ a, t.readMem a = s.readMem a) ∧
  (Part.latch ∉ parts → t.halt = s.halt ∧ t.cause = s.cause ∧ t.faddr = s.faddr ∧ t.fword = s.fword) ∧
  (Part.display ∉ parts → ∀ c, t.disp.cell c = s.disp.cell c) ∧
  (Part.draws ∉ parts → t.draws = s.draws) ∧
  t.keys = s.keys ∧ t.params = s.params

/-- The sequential advance (R27). -/
def Advances (s t : State) : Prop := t.pc.toNat = (s.pc.toNat + 2) % 4096

/-- A skip on the condition `c` (R27, R133). -/
def Skips (c : Prop) (s t : State) : Prop :=
  (c → t.pc.toNat = (s.pc.toNat + 4) % 4096) ∧ (¬c → t.pc.toNat = (s.pc.toNat + 2) % 4096)

/-- The fault latch filled by the word `w` with this code, and nothing else changed (R235). -/
def HaltedBy (code w : Nat) (s t : State) : Prop :=
  t.halt = true ∧ t.cause.toNat = code ∧ t.faddr = s.pc ∧ t.fword.toNat = w ∧ t.pc = s.pc ∧ Frame [.latch] [] s t

/-- The codes of rule R230. -/
def causeNumber : Cause → Nat
  | .invalidInstruction => 1
  | .unimplementedInstruction => 2
  | .stackOverflow => 3
  | .stackUnderflow => 4

/-- The registers an instruction writes, from the table of rule R22 (the least key that is down decides for `LD_VX_K`,
R195: with none down nothing is written). -/
def writesReg (i : Instr) (k : Reg) : Prop :=
  match i with
  | .ldImm x _ | .addImm x _ | .ldReg x _ | .orReg x _ | .andReg x _ | .xorReg x _ | .rnd x _ | .ldVxDt x
  | .ldVxK x => k = x
  | .addReg x _ | .sub x _ | .subn x _ | .shr x _ | .shl x _ => k = x ∨ k = flagReg
  | .drw _ _ _ => k = flagReg
  | .ldVxMem x => k ≤ x
  | .sys _ | .cls | .ret | .jp _ | .call _ | .seImm _ _ | .sneImm _ _ | .seReg _ _ | .sneReg _ _ | .ldI _ | .jpV0 _
  | .skp _ | .sknp _ | .ldDtVx _ | .ldStVx _ | .addI _ | .ldF _ | .ldB _ | .ldMemVx _ | .scd _ | .scr | .scl | .low
  | .high | .ldHf _ | .ldRVx _ | .ldVxR _ | .invalid _ => False

/-- The instructions that define a flag outcome (R23). -/
def definesFlag (i : Instr) : Prop :=
  match i with
  | .addReg _ _ | .sub _ _ | .subn _ _ | .shr _ _ | .shl _ _ | .drw _ _ _ => True
  | .sys _ | .cls | .ret | .jp _ | .call _ | .seImm _ _ | .sneImm _ _ | .seReg _ _ | .ldImm _ _ | .addImm _ _
  | .ldReg _ _ | .orReg _ _ | .andReg _ _ | .xorReg _ _ | .sneReg _ _ | .ldI _ | .jpV0 _ | .rnd _ _ | .skp _ | .sknp _
  | .ldVxDt _ | .ldVxK _ | .ldDtVx _ | .ldStVx _ | .addI _ | .ldF _ | .ldB _ | .ldMemVx _ | .ldVxMem _ | .scd _
  | .scr | .scl | .low | .high | .ldHf _ | .ldRVx _ | .ldVxR _ | .invalid _ => False

/-- How each kind leaves `PC`, from the table of rule R27, as a number; fatal cases and the hold leave `a`. -/
def nextPc (i : Instr) (s : State) : Nat :=
  let a := s.pc.toNat
  match i with
  | .jp nnn => nnn.toNat
  | .call nnn => if s.sp.val = 16 then a else nnn.toNat
  | .ret => ((s.stackEntry s.sp.val).map BitVec.toNat).getD a
  | .jpV0 nnn => (nnn.toNat + (s.reg 0).toNat) % 4096
  | .seImm x kk => (a + if s.reg x = kk then 4 else 2) % 4096
  | .sneImm x kk => (a + if s.reg x = kk then 2 else 4) % 4096
  | .seReg x y => (a + if s.reg x = s.reg y then 4 else 2) % 4096
  | .sneReg x y => (a + if s.reg x = s.reg y then 2 else 4) % 4096
  | .skp x => (a + if s.keyDown (Fin.ofNat 16 (s.reg x).toNat) = true then 4 else 2) % 4096
  | .sknp x => (a + if s.keyDown (Fin.ofNat 16 (s.reg x).toNat) = true then 2 else 4) % 4096
  | .ldVxK _ => if ∃ k, s.keyDown k = true then (a + 2) % 4096 else a
  | .scd _ | .scr | .scl | .low | .high | .ldHf _ | .ldRVx _ | .ldVxR _ | .invalid _ => a
  | .sys _ | .cls | .ldImm _ _ | .addImm _ _ | .ldReg _ _ | .orReg _ _ | .andReg _ _ | .xorReg _ _ | .addReg _ _
  | .sub _ _ | .shr _ _ | .subn _ _ | .shl _ _ | .ldI _ | .rnd _ _ | .drw _ _ _ | .ldVxDt _ | .ldDtVx _ | .ldStVx _
  | .addI _ | .ldF _ | .ldB _ | .ldMemVx _ | .ldVxMem _ => (a + 2) % 4096

/-- The cell `c` is one that a 1 bit of the sprite toggles: bit `7 - j` of the byte at `I + r`, drawn at
`(x0 + j) mod SCREEN_W`, `(y0 + r) mod SCREEN_H` (R191). -/
def SpriteBit (s : State) (x0 y0 n : Nat) (c : Cell) : Prop :=
  ∃ r < n, ∃ j < 8, (s.readMem (s.i.toNat + r)).getLsbD (7 - j) = true ∧
    c = ((x0 + j) % s.params.screenW.val, (y0 + r) % s.params.screenH.val)

/-- How many 1 bits of the sprite reach the cell `c` (R191): more than one only on a screen narrower than 8 or lower than
the sprite. -/
def spriteHits (s : State) (x0 y0 n : Nat) (c : Cell) : Nat :=
  ((List.range n).map fun r => (List.range 8).countP fun j =>
    (s.readMem (s.i.toNat + r)).getLsbD (7 - j) &&
      decide (((x0 + j) % s.params.screenW.val, (y0 + r) % s.params.screenH.val) = c)).sum

/-- The glyph rows of rule R36, copied from its table, digit by digit. -/
def glyphRows : Nat → List Nat
  | 0 => [0xF0, 0x90, 0x90, 0x90, 0xF0]
  | 1 => [0x20, 0x60, 0x20, 0x20, 0x70]
  | 2 => [0xF0, 0x10, 0xF0, 0x80, 0xF0]
  | 3 => [0xF0, 0x10, 0xF0, 0x10, 0xF0]
  | 4 => [0x90, 0x90, 0xF0, 0x10, 0x10]
  | 5 => [0xF0, 0x80, 0xF0, 0x10, 0xF0]
  | 6 => [0xF0, 0x80, 0xF0, 0x90, 0xF0]
  | 7 => [0xF0, 0x10, 0x20, 0x40, 0x40]
  | 8 => [0xF0, 0x90, 0xF0, 0x90, 0xF0]
  | 9 => [0xF0, 0x90, 0xF0, 0x10, 0xF0]
  | 10 => [0xF0, 0x90, 0xF0, 0x90, 0x90]
  | 11 => [0xE0, 0x90, 0xE0, 0x90, 0xE0]
  | 12 => [0xF0, 0x80, 0x80, 0x80, 0xF0]
  | 13 => [0xE0, 0x90, 0x90, 0x90, 0xE0]
  | 14 => [0xF0, 0x80, 0xF0, 0x80, 0xF0]
  | 15 => [0xF0, 0x80, 0xF0, 0x80, 0x80]
  | _ => []

/-- The reset values of rule R45, the keys apart; FONT_BASE and FONT_DATA are those of the machine's parameters (R6). -/
def AtReset (t : State) : Prop :=
  (∀ k, t.reg k = 0) ∧ t.pc.toNat = 0x200 ∧ (∀ j, 1 ≤ j → j ≤ 16 → t.stackEntry j = some 0) ∧ t.sp.val = 0 ∧
  t.i = 0 ∧ t.dt = 0 ∧ t.st = 0 ∧
  (∀ k (h : k < 80), t.readMem (t.params.fontBase.val + k) = t.params.fontData[k]) ∧
  (∀ a < 4096, ¬(t.params.fontBase.val ≤ a ∧ a < t.params.fontBase.val + 80) → t.readMem a = 0) ∧
  t.halt = false ∧ t.cause = 0 ∧ t.faddr = 0 ∧ t.fword = 0 ∧ (∀ c, t.disp.cell c = false)

/-- The values of the parameters that rule R6 shows, with the glyphs of rule R36 in the layout of rule R35. -/
def StandardParameters (p : Params) : Prop :=
  p.fontBase.val = 0x000 ∧ p.screenW.val = 64 ∧ p.screenH.val = 32 ∧
  ∀ d < 16, ∀ r < 5, ∀ h : 5 * d + r < 80, (p.fontData[5 * d + r]).toNat = (glyphRows d).getD r 0

end Sys2Proof.Spec

open Sys2Proof Sys2Proof.Machine Sys2Proof.Spec

/-! ### Encoding -/

/-- The decoder gives back every well-formed instruction from its word, with every operand (R94, R96). -/
def Obligations.DecodeGivesBackEncode : Prop := ∀ i : Instr, i.wellFormed = true → decode (encode i) = i

/-- Every word decodes to a well-formed instruction that encodes to that word: no bit of a word is lost (R93, R103). -/
def Obligations.EncodeGivesBackEveryWord : Prop :=
  ∀ w : Word, (decode w).wellFormed = true ∧ encode (decode w) = w

/-- Words the spec spells out, read from their two bytes (R60, R97, and the table of 95_test_vectors.md 2.1). -/
def Obligations.SpelledOutWordsDecode : Prop :=
  decodeBytes [0x00, 0xEE] = .ok (.ret, []) ∧ decodeBytes [0x81, 0x24] = .ok (.addReg 1 2, []) ∧
  decodeBytes [0xA2, 0xF0] = .ok (.ldI 0x2F0, []) ∧ decodeBytes [0xF1, 0x29] = .ok (.ldF 1, []) ∧
  decodeBytes [0x61, 0x12] = .ok (.ldImm 1 0x12, []) ∧ decodeBytes [0xD1, 0x2F] = .ok (.drw 1 2 0xF, []) ∧
  decodeBytes [0x1A, 0xBC] = .ok (.jp 0xABC, []) ∧ decodeBytes [0xEF, 0xA1] = .ok (.sknp 0xF, []) ∧
  decodeBytes [0x00, 0xC7] = .ok (.scd 7, []) ∧ decodeBytes [0x50, 0x01] = .ok (.invalid 0x5001, [])

/-- The words that decode to `INVALID` are those of the table of rule R99, by page, low nibble and low byte of the number
(the counts of that table are not restated). -/
def Obligations.InvalidWordsAreThoseOfTheTable : Prop :=
  ∀ w : Word,
    let page := w.toNat / 4096
    let n := w.toNat % 16
    let kk := w.toNat % 256
    (decode w = .invalid w ↔
      (page = 5 ∧ n ≠ 0) ∨ (page = 8 ∧ (8 ≤ n ∧ n ≤ 13 ∨ n = 15)) ∨ (page = 9 ∧ n ≠ 0) ∨
      (page = 14 ∧ kk ≠ 0x9E ∧ kk ≠ 0xA1) ∨
      (page = 15 ∧ kk ∉ [0x07, 0x0A, 0x15, 0x18, 0x1E, 0x29, 0x30, 0x33, 0x55, 0x65, 0x75, 0x85])) ∧
    (∀ v, decode w = .invalid v → v = w)

/-- All sixteen bits must match for the six full-word kinds; 0x01E0 and 0x0AEE are `SYS` (R98). -/
def Obligations.FullWordKindsMatchAllBits : Prop :=
  (∀ w : Word, (decode w = .cls ↔ w = 0x00E0) ∧ (decode w = .ret ↔ w = 0x00EE) ∧ (decode w = .scr ↔ w = 0x00FB) ∧
    (decode w = .scl ↔ w = 0x00FC) ∧ (decode w = .low ↔ w = 0x00FE) ∧ (decode w = .high ↔ w = 0x00FF)) ∧
  decode 0x01E0 = .sys 0x1E0 ∧ decode 0x0AEE = .sys 0xAEE

/-- Precedence (R96): a word matches the row of the kind it decodes to, and every other row that matches it has its mask
inside that row's mask. -/
def Obligations.MostSpecificRowWins : Prop :=
  ∀ (w : Word) (j : Instr),
    w &&& (decode w).row.1 = (decode w).row.2 ∧ (w &&& j.row.1 = j.row.2 → j.row.1 &&& (decode w).row.1 = j.row.1)

/-! ### The step -/

/-- A step of a machine that is not halted runs the instruction decoded from the bytes at `PC` and `PC + 1` (R130, R131):
nothing else happens around it. -/
def Obligations.StepRunsTheDecodedInstruction : Prop :=
  ∀ (s : State) (hi lo : Byte) (i : Instr), s.halt = false → s.readMem s.pc.toNat = hi →
    s.readMem ((s.pc.toNat + 1) % 4096) = lo → decode (wordOfBytes hi lo) = i → step s = exec i s

/-- The fetched word has the byte at `PC` as its high byte and the byte at `PC + 1`, wrapped, as its low byte (R60). -/
def Obligations.FetchIsBigEndian : Prop :=
  ∀ s : State, s.fetch.toNat = 256 * (s.readMem s.pc.toNat).toNat + (s.readMem ((s.pc.toNat + 1) % 4096)).toNat

/-- A step request to a halted machine changes nothing (R135). That the halted state is then reported as the fault `halted`
with its diagnostic is the model's way of counting it as a fault, DEDUCED: notes/assumptions/5.md. -/
def Obligations.HaltedStepChangesNothing : Prop :=
  ∀ s : State, s.halt = true →
    step s = .next s ∧ s.report = some (.halted s.cause s.faddr s.fword) ∧
      surface (step s) = .fault (.halted s.cause s.faddr s.fword)

/-- No instruction ends in a fault or a refusal, in any state (the fatal conditions are next states, R235; nothing else
fails, R248). -/
def Obligations.EveryInstructionAnswersANextState : Prop := ∀ (i : Instr) (s : State), ∃ t, exec i s = .next t

/-- The fatal conditions of a step: exactly those of the table of rule R230, each with its code, the address and the word,
and nothing else changed (R235); otherwise the latch stays as it is. -/
def Obligations.StepRaisesExactlyTheFatalConditions : Prop :=
  ∀ s : State, s.halt = false → ∃ t, step s = .next t ∧
    (∀ c, fatalCause (decode s.fetch) s = some c → HaltedBy (causeNumber c) s.fetch.toNat s t) ∧
    (fatalCause (decode s.fetch) s = none →
      t.halt = false ∧ t.cause = s.cause ∧ t.faddr = s.faddr ∧ t.fword = s.fword)

/-- A table word placed by `withFetchWord` is the instruction the next step runs, wherever `PC` stands. -/
def Obligations.PlacedWordRunsNext : Prop :=
  ∀ (s : State) (w : Word), s.halt = false → s.mem.wf s.params = true →
    decodeTableWord 16 w.toNat = some (decode w) ∧
      step (s.withFetchWord 16 w.toNat) = exec (decode w) (s.withFetchWord 16 w.toNat)

/-! ### Control flow -/

/-- `SYS` only advances, `JP` goes to `NNN`, `JP_V0` to `NNN + V[0]` mod 4096; nothing else changes (R140, R142, R148). -/
def Obligations.SysAndJumpsSetOnlyThePc : Prop :=
  ∀ (nnn : Addr) (s : State),
    (∃ t, exec (.sys nnn) s = .next t ∧ Advances s t ∧ Frame [] [] s t) ∧
    (∃ t, exec (.jp nnn) s = .next t ∧ t.pc = nnn ∧ Frame [] [] s t) ∧
    (∃ t, exec (.jpV0 nnn) s = .next t ∧ t.pc.toNat = (nnn.toNat + (s.reg 0).toNat) % 4096 ∧ Frame [] [] s t)

/-- `SE Vx, byte` and `SNE Vx, byte` (R144, R145). -/
def Obligations.ImmediateSkips : Prop :=
  ∀ (x : Reg) (kk : Byte) (s : State),
    (∃ t, exec (.seImm x kk) s = .next t ∧ Skips (s.reg x = kk) s t ∧ Frame [] [] s t) ∧
    (∃ t, exec (.sneImm x kk) s = .next t ∧ Skips (s.reg x ≠ kk) s t ∧ Frame [] [] s t)

/-- `SE Vx, Vy` and `SNE Vx, Vy` (R146, R147). -/
def Obligations.RegisterSkips : Prop :=
  ∀ (x y : Reg) (s : State),
    (∃ t, exec (.seReg x y) s = .next t ∧ Skips (s.reg x = s.reg y) s t ∧ Frame [] [] s t) ∧
    (∃ t, exec (.sneReg x y) s = .next t ∧ Skips (s.reg x ≠ s.reg y) s t ∧ Frame [] [] s t)

/-- `SKP` and `SKNP` ask for the key `V[X] mod 16` (R192, R193, R194). -/
def Obligations.KeySkips : Prop :=
  ∀ (x : Reg) (s : State) (k : Fin 16), k.val = (s.reg x).toNat % 16 →
    (∃ t, exec (.skp x) s = .next t ∧ Skips (s.keyDown k = true) s t ∧ Frame [] [] s t) ∧
    (∃ t, exec (.sknp x) s = .next t ∧ Skips (s.keyDown k = false) s t ∧ Frame [] [] s t)

/-- `CALL` (R143): below sixteen held addresses it counts up, writes `a + 2` mod 4096 into the entry the new `SP` names and
goes to `NNN`; at sixteen it is fatal with code 3. -/
def Obligations.CallPushesTheNextAddress : Prop :=
  ∀ (nnn : Addr) (s : State),
    (s.sp.val < 16 → ∃ t, exec (.call nnn) s = .next t ∧ t.pc = nnn ∧ t.sp.val = s.sp.val + 1 ∧
      (∃ r : Addr, t.stackEntry t.sp.val = some r ∧ r.toNat = (s.pc.toNat + 2) % 4096) ∧
      (∀ j, j ≠ t.sp.val → t.stackEntry j = s.stackEntry j) ∧ Frame [.stack] [] s t) ∧
    (s.sp.val = 16 → ∃ t, exec (.call nnn) s = .next t ∧ HaltedBy 3 (0x2000 + nnn.toNat) s t)

/-- `RET` (R141): with an address held it goes to `STACK[SP]` exactly and counts down, the entry keeping its value; with none
it is fatal with code 4. -/
def Obligations.ReturnGoesToTheNewestAddress : Prop :=
  ∀ s : State,
    (0 < s.sp.val → ∃ t, exec .ret s = .next t ∧ s.stackEntry s.sp.val = some t.pc ∧ t.sp.val + 1 = s.sp.val ∧
      (∀ j, t.stackEntry j = s.stackEntry j) ∧ Frame [.stack] [] s t) ∧
    (s.sp.val = 0 → ∃ t, exec .ret s = .next t ∧ HaltedBy 4 0x00EE s t)

/-- A subroutine comes back to the instruction after its `CALL` (R134): after a `CALL`, any change that leaves the stack
alone, and a `RET`, `PC` is `a + 2` mod 4096 and `SP` is what it was. -/
def Obligations.ReturnComesBackAfterTheCall : Prop :=
  ∀ (nnn : Addr) (s t u : State), s.sp.val < 16 → exec (.call nnn) s = .next t → u.sp = t.sp → u.stack = t.stack →
    ∃ r, exec .ret u = .next r ∧ r.pc.toNat = (s.pc.toNat + 2) % 4096 ∧ r.sp = s.sp

/-! ### Loads, ALU, random -/

/-- `LD Vx, byte` and `LD Vx, Vy` (R160, R162). -/
def Obligations.LoadImmediateAndMove : Prop :=
  ∀ (x y : Reg) (kk : Byte) (s : State),
    (∃ t, exec (.ldImm x kk) s = .next t ∧ t.reg x = kk ∧ Advances s t ∧ Frame [] [x] s t) ∧
    (∃ t, exec (.ldReg x y) s = .next t ∧ t.reg x = s.reg y ∧ Advances s t ∧ Frame [] [x] s t)

/-- `ADD Vx, byte` wraps mod 256 and writes no flag (R161). -/
def Obligations.AddImmediateWrapsWithoutFlag : Prop :=
  ∀ (x : Reg) (kk : Byte) (s : State), ∃ t, exec (.addImm x kk) s = .next t ∧
    (t.reg x).toNat = ((s.reg x).toNat + kk.toNat) % 256 ∧ Advances s t ∧ Frame [] [x] s t

/-- `OR`, `AND`, `XOR` combine the registers bit by bit and write no flag (R163, R164, R165). -/
def Obligations.LogicIsBitwiseWithoutFlag : Prop :=
  ∀ (x y : Reg) (s : State),
    (∃ t, exec (.orReg x y) s = .next t ∧
      (∀ b < 8, (t.reg x).getLsbD b = ((s.reg x).getLsbD b || (s.reg y).getLsbD b)) ∧
      Advances s t ∧ Frame [] [x] s t) ∧
    (∃ t, exec (.andReg x y) s = .next t ∧
      (∀ b < 8, (t.reg x).getLsbD b = ((s.reg x).getLsbD b && (s.reg y).getLsbD b)) ∧
      Advances s t ∧ Frame [] [x] s t) ∧
    (∃ t, exec (.xorReg x y) s = .next t ∧
      (∀ b < 8, (t.reg x).getLsbD b = ((s.reg x).getLsbD b ^^ (s.reg y).getLsbD b)) ∧
      Advances s t ∧ Frame [] [x] s t)

/-- `ADD Vx, Vy` (R166): the sum mod 256 in `V[X]`, then the carry in `VF`, which stands when `X = 15`. -/
def Obligations.AddRegistersWithCarry : Prop :=
  ∀ (x y : Reg) (s : State), ∃ t, exec (.addReg x y) s = .next t ∧
    (x ≠ 15 → (t.reg x).toNat = ((s.reg x).toNat + (s.reg y).toNat) % 256) ∧
    (t.reg 15).toNat = (if (s.reg x).toNat + (s.reg y).toNat > 255 then 1 else 0) ∧
    Advances s t ∧ Frame [] [x, 15] s t

/-- `SUB` and `SUBN` (R167, R168): the difference mod 256 in `V[X]`, then 1 for no borrow in `VF`. -/
def Obligations.SubtractionsWithNoBorrow : Prop :=
  ∀ (x y : Reg) (s : State),
    (∃ t, exec (.sub x y) s = .next t ∧
      (x ≠ 15 → (t.reg x).toNat = ((s.reg x).toNat + 256 - (s.reg y).toNat) % 256) ∧
      (t.reg 15).toNat = (if (s.reg x).toNat ≥ (s.reg y).toNat then 1 else 0) ∧
      Advances s t ∧ Frame [] [x, 15] s t) ∧
    (∃ t, exec (.subn x y) s = .next t ∧
      (x ≠ 15 → (t.reg x).toNat = ((s.reg y).toNat + 256 - (s.reg x).toNat) % 256) ∧
      (t.reg 15).toNat = (if (s.reg y).toNat ≥ (s.reg x).toNat then 1 else 0) ∧
      Advances s t ∧ Frame [] [x, 15] s t)

/-- `SHR` and `SHL` (R169, R170): `V[X]` by one in place, `Y` ignored, then the bit shifted out in `VF`. -/
def Obligations.ShiftsKeepTheBitShiftedOut : Prop :=
  ∀ (x y : Reg) (s : State),
    (∃ t, exec (.shr x y) s = .next t ∧ (x ≠ 15 → (t.reg x).toNat = (s.reg x).toNat / 2) ∧
      (t.reg 15).toNat = (s.reg x).toNat % 2 ∧ Advances s t ∧ Frame [] [x, 15] s t) ∧
    (∃ t, exec (.shl x y) s = .next t ∧ (x ≠ 15 → (t.reg x).toNat = 2 * (s.reg x).toNat % 256) ∧
      (t.reg 15).toNat = (s.reg x).toNat / 128 ∧ Advances s t ∧ Frame [] [x, 15] s t)

/-- `RND` (R171): one byte drawn, ANDed with `KK`; no bit is set that `KK` has clear. That the byte is the free value at the
count `draws`, and that the count goes up by one, is the model's form of the draw, a DESIGN CHOICE:
notes/assumptions/2.md. It holds for every value of the draw. -/
def Obligations.RandomByteUnderTheMask : Prop :=
  ∀ (x : Reg) (kk : Byte) (s : State), ∃ t, exec (.rnd x kk) s = .next t ∧
    (∀ b < 8, (t.reg x).getLsbD b = ((Config.randomByte s.draws).getLsbD b && kk.getLsbD b)) ∧
    t.draws = s.draws + 1 ∧ Advances s t ∧ Frame [.draws] [x] s t

/-- The flag-register invariant (R23): an instruction that defines a flag outcome leaves `VF` 0 or 1, whatever its
operands; any other leaves `VF` unless it writes register 15 as its destination. -/
def Obligations.OnlyFlagInstructionsSetTheFlag : Prop :=
  ∀ (i : Instr) (s t : State), exec i s = .next t →
    (definesFlag i → (t.reg flagReg).toNat ≤ 1) ∧
    (¬definesFlag i → ¬writesReg i flagReg → t.reg flagReg = s.reg flagReg)

/-- No instruction writes a register that the table of rule R22 does not give it. -/
def Obligations.RegisterWritesAreThoseOfTheTable : Prop :=
  ∀ (i : Instr) (s t : State), exec i s = .next t → ∀ k, ¬writesReg i k → t.reg k = s.reg k

/-- The same register as source and destination (R174). -/
def Obligations.SameRegisterOperands : Prop :=
  ∀ (x : Reg) (s : State),
    (∀ i, i = Instr.ldReg x x ∨ i = Instr.orReg x x ∨ i = Instr.andReg x x →
      ∃ t, exec i s = .next t ∧ ∀ k, t.reg k = s.reg k) ∧
    (∃ t, exec (.xorReg x x) s = .next t ∧ t.reg x = 0) ∧
    (∃ t, exec (.addReg x x) s = .next t ∧ (x ≠ 15 → (t.reg x).toNat = 2 * (s.reg x).toNat % 256) ∧
      (t.reg 15).toNat = (s.reg x).toNat / 128) ∧
    (∀ i, i = Instr.sub x x ∨ i = Instr.subn x x →
      ∃ t, exec i s = .next t ∧ (x ≠ 15 → t.reg x = 0) ∧ t.reg 15 = 1)

/-! ### Address register and memory -/

/-- `LD I`, `ADD I`, `LD F` (R180, R181, R182): `I` becomes `NNN`, `I + V[X]` mod 4096 without a flag, and
`FONT_BASE + 5 * V[X]` mod 4096 with the whole byte, for every FONT_BASE (R6). -/
def Obligations.IndexRegisterLoads : Prop :=
  ∀ (nnn : Addr) (x : Reg) (s : State),
    (∃ t, exec (.ldI nnn) s = .next t ∧ t.i = nnn ∧ Advances s t ∧ Frame [.index] [] s t) ∧
    (∃ t, exec (.addI x) s = .next t ∧ t.i.toNat = (s.i.toNat + (s.reg x).toNat) % 4096 ∧ Advances s t ∧
      Frame [.index] [] s t) ∧
    (∃ t, exec (.ldF x) s = .next t ∧ t.i.toNat = (s.params.fontBase.val + 5 * (s.reg x).toNat) % 4096 ∧ Advances s t ∧
      Frame [.index] [] s t)

/-- For a digit, `LD F` points `I` at its five bytes of FONT_DATA wherever the 80 bytes of the font read as right after
reset, whatever the rest of memory holds (R35, R182), for every FONT_BASE and FONT_DATA; with the parameters of this hardware
they are the rows of its glyph (R36). -/
def Obligations.FontAddressPointsAtTheGlyph : Prop :=
  ∀ (x : Reg) (s : State), (s.reg x).toNat < 16 →
    (∀ k < 80, s.readMem (s.params.fontBase.val + k) = (State.resetWith s.params).readMem (s.params.fontBase.val + k)) →
    ∃ t, exec (.ldF x) s = .next t ∧
      (∀ r < 5, ∀ h : 5 * (s.reg x).toNat + r < 80,
        t.readMem (t.i.toNat + r) = s.params.fontData[5 * (s.reg x).toNat + r]) ∧
      (s.params = Params.standard →
        ∀ r < 5, (t.readMem (t.i.toNat + r)).toNat = (glyphRows (s.reg x).toNat).getD r 0)

/-- `LD B` (R183): hundreds, tens and ones at `I`, `I + 1`, `I + 2` mod 4096; every other byte and `I` unchanged. -/
def Obligations.DecimalDigitsAreStored : Prop :=
  ∀ (x : Reg) (s : State), s.mem.wf s.params = true → ∃ t, exec (.ldB x) s = .next t ∧
    (t.readMem s.i.toNat).toNat = (s.reg x).toNat / 100 ∧
    (t.readMem (s.i.toNat + 1)).toNat = (s.reg x).toNat / 10 % 10 ∧
    (t.readMem (s.i.toNat + 2)).toNat = (s.reg x).toNat % 10 ∧
    (∀ a, (∀ k < 3, a % 4096 ≠ (s.i.toNat + k) % 4096) → t.readMem a = s.readMem a) ∧
    Advances s t ∧ Frame [.mem] [] s t

/-- `LD [I], Vx` (R184): `V[k]` at `I + k` mod 4096 for `k` from 0 to `X`; every other byte and `I` unchanged. -/
def Obligations.BlockStoreWritesTheRegisters : Prop :=
  ∀ (x : Reg) (s : State), s.mem.wf s.params = true → ∃ t, exec (.ldMemVx x) s = .next t ∧
    (∀ k : Reg, k ≤ x → t.readMem (s.i.toNat + k.val) = s.reg k) ∧
    (∀ a, (∀ k : Reg, k ≤ x → a % 4096 ≠ (s.i.toNat + k.val) % 4096) → t.readMem a = s.readMem a) ∧
    Advances s t ∧ Frame [.mem] [] s t

/-- `LD Vx, [I]` (R185): `V[k]` from `I + k` mod 4096 for `k` from 0 to `X`; the registers above, `I` and memory
unchanged. -/
def Obligations.BlockLoadReadsTheRegisters : Prop :=
  ∀ (x : Reg) (s : State), ∃ t, exec (.ldVxMem x) s = .next t ∧
    (∀ k : Reg, k ≤ x → t.reg k = s.readMem ((s.i.toNat + k.val) % 4096)) ∧
    (∀ k : Reg, x < k → t.reg k = s.reg k) ∧ Advances s t ∧ Frame [] ((List.finRange 16).filter (· ≤ x)) s t

/-- A block stored and loaded again from the same `I` gives back the registers, whatever they hold in between (R184,
R185). -/
def Obligations.BlockLoadGivesBackTheBlockStored : Prop :=
  ∀ (x : Reg) (s t u : State), s.mem.wf s.params = true → exec (.ldMemVx x) s = .next t →
    (∀ a, u.readMem a = t.readMem a) → u.i = t.i →
    ∃ r, exec (.ldVxMem x) u = .next r ∧ ∀ k : Reg, k ≤ x → r.reg k = s.reg k

/-- The fetch sees a store at once (R75): after a block store over the next instruction's two bytes, the next step runs the
word just stored. -/
def Obligations.StoredWordRunsAtTheNextStep : Prop :=
  ∀ (x : Reg) (s t : State), s.mem.wf s.params = true → s.halt = false → decode s.fetch = .ldMemVx x → 1 ≤ x.val →
    s.i.toNat = (s.pc.toNat + 2) % 4096 → step s = .next t →
      step t = exec (decode (wordOfBytes (s.reg 0) (s.reg 1))) t

/-! ### Display, keys, timers -/

/-- `CLS` turns every cell off (R190). -/
def Obligations.ClearTurnsEveryCellOff : Prop :=
  ∀ s : State, ∃ t, exec .cls s = .next t ∧ (∀ c, t.disp.cell c = false) ∧ Advances s t ∧ Frame [.display] [] s t

/-- `DRW` (R191), on every screen size: a cell is turned over once for each 1 bit of the sprite that reaches it, and `VF` is
1 if a toggle found its cell on, because the cell was on before or because an earlier toggle of this draw turned it on;
else 0. -/
def Obligations.DrawTogglesACellOncePerSpriteBit : Prop :=
  ∀ (x y : Reg) (n : Nibble) (s : State), s.disp.wf s.params = true →
    let hits := spriteHits s (s.reg x).toNat (s.reg y).toNat n.toNat
    ∃ t, exec (.drw x y n) s = .next t ∧
      (∀ c, hits c % 2 = 1 → t.disp.cell c = !s.disp.cell c) ∧ (∀ c, hits c % 2 = 0 → t.disp.cell c = s.disp.cell c) ∧
      ((∃ c, 0 < hits c ∧ (s.disp.cell c = true ∨ 2 ≤ hits c)) → t.reg 15 = 1) ∧
      ((∀ c, 0 < hits c → s.disp.cell c = false ∧ hits c = 1) → t.reg 15 = 0) ∧
      Advances s t ∧ Frame [.display] [15] s t

/-- `DRW` on a screen of at least 8 columns and 15 lines, where no two bits of one sprite reach the same cell (R191):
exactly the cells of the sprite's 1 bits are turned over, and `VF` is 1 if one of them was on, else 0. -/
def Obligations.DrawTurnsOverTheSpriteCells : Prop :=
  ∀ (x y : Reg) (n : Nibble) (s : State), s.disp.wf s.params = true → 8 ≤ s.params.screenW.val →
    15 ≤ s.params.screenH.val →
    let bit := SpriteBit s (s.reg x).toNat (s.reg y).toNat n.toNat
    ∃ t, exec (.drw x y n) s = .next t ∧
      (∀ c, bit c → t.disp.cell c = !s.disp.cell c) ∧ (∀ c, ¬bit c → t.disp.cell c = s.disp.cell c) ∧
      ((∃ c, bit c ∧ s.disp.cell c = true) → t.reg 15 = 1) ∧ ((∀ c, bit c → s.disp.cell c = false) → t.reg 15 = 0) ∧
      Advances s t ∧ Frame [.display] [15] s t

/-- Drawing the same sprite twice at the same place restores the display (R191, corner cases), on every screen size. On
cells that were off the second draw gives `VF = 1` if the sprite has a 1 bit; with a cell of the sprite on before, that
corner case is stated by the rule without this premise, which its pseudocode does not bear out
(notes/assumptions/14.md). -/
def Obligations.DrawTwiceRestoresTheDisplay : Prop :=
  ∀ (x y : Reg) (n : Nibble) (s t u : State), s.disp.wf s.params = true → x ≠ 15 → y ≠ 15 →
    exec (.drw x y n) s = .next t → exec (.drw x y n) t = .next u →
      let bit := SpriteBit s (s.reg x).toNat (s.reg y).toNat n.toNat
      (∀ c, u.disp.cell c = s.disp.cell c) ∧
      ((∀ c, bit c → s.disp.cell c = false) → ((∃ c, bit c) → u.reg 15 = 1) ∧ ((∀ c, ¬bit c) → u.reg 15 = 0))

/-- `LD Vx, K` (R195): the least key that is down goes to `V[X]`; with no key down nothing changes, `PC` included. -/
def Obligations.WaitForKeyTakesTheLeastOrHolds : Prop :=
  ∀ (x : Reg) (s : State),
    (∀ k : Fin 16, s.keyDown k = true → (∀ j < k, s.keyDown j = false) → ∃ t, exec (.ldVxK x) s = .next t ∧
      (t.reg x).toNat = k.val ∧ Advances s t ∧ Frame [] [x] s t) ∧
    ((∀ k, s.keyDown k = false) → exec (.ldVxK x) s = .next s)

/-- `LD Vx, DT`, `LD DT, Vx`, `LD ST, Vx` (R196, R197, R198). -/
def Obligations.TimerRegisterMoves : Prop :=
  ∀ (x : Reg) (s : State),
    (∃ t, exec (.ldVxDt x) s = .next t ∧ t.reg x = s.dt ∧ Advances s t ∧ Frame [] [x] s t) ∧
    (∃ t, exec (.ldDtVx x) s = .next t ∧ t.dt = s.reg x ∧ Advances s t ∧ Frame [.delay] [] s t) ∧
    (∃ t, exec (.ldStVx x) s = .next t ∧ t.st = s.reg x ∧ Advances s t ∧ Frame [.sound] [] s t)

/-! ### Fatal kinds -/

/-- `INVALID` (R210): the latch gets code 1, the address and the word, and nothing else changes. -/
def Obligations.InvalidWordHaltsWithItsDiagnostic : Prop :=
  ∀ (w : Word) (s : State), ∃ t, exec (.invalid w) s = .next t ∧ HaltedBy 1 w.toNat s t

/-- The eight extended kinds (R219, R211 to R218): code 2, each with its own word, and nothing else changed. -/
def Obligations.ExtendedKindsHaltAsUnimplemented : Prop :=
  ∀ (x : Reg) (n : Nibble) (s : State),
    (∃ t, exec (.scd n) s = .next t ∧ HaltedBy 2 (0x00C0 + n.toNat) s t) ∧
    (∃ t, exec .scr s = .next t ∧ HaltedBy 2 0x00FB s t) ∧ (∃ t, exec .scl s = .next t ∧ HaltedBy 2 0x00FC s t) ∧
    (∃ t, exec .low s = .next t ∧ HaltedBy 2 0x00FE s t) ∧ (∃ t, exec .high s = .next t ∧ HaltedBy 2 0x00FF s t) ∧
    (∃ t, exec (.ldHf x) s = .next t ∧ HaltedBy 2 (0xF030 + 256 * x.val) s t) ∧
    (∃ t, exec (.ldRVx x) s = .next t ∧ HaltedBy 2 (0xF075 + 256 * x.val) s t) ∧
    (∃ t, exec (.ldVxR x) s = .next t ∧ HaltedBy 2 (0xF085 + 256 * x.val) s t)

/-! ### Rules of the whole machine -/

/-- How every kind leaves `PC` (R27). -/
def Obligations.NextPcIsThatOfTheTable : Prop :=
  ∀ (i : Instr) (s : State), ∃ t, exec i s = .next t ∧ t.pc.toNat = nextPc i s

/-- Each special register, the stack, memory and the display is written by its named instructions and by no other (R25,
R28, R30, R31, R40), and no instruction writes the keys (R43) or changes the parameters (R34). -/
def Obligations.OnlyTheNamedInstructionsWrite : Prop :=
  ∀ (i : Instr) (s t : State), exec i s = .next t →
    ((∀ a x, i ≠ .ldI a ∧ i ≠ .addI x ∧ i ≠ .ldF x) → t.i = s.i) ∧
    ((∀ a, i ≠ .call a ∧ i ≠ .ret) → t.sp = s.sp ∧ t.stack = s.stack) ∧
    ((∀ x, i ≠ .ldDtVx x) → t.dt = s.dt) ∧ ((∀ x, i ≠ .ldStVx x) → t.st = s.st) ∧
    ((∀ x, i ≠ .ldB x ∧ i ≠ .ldMemVx x) → t.mem = s.mem) ∧
    ((∀ x y n, i ≠ .cls ∧ i ≠ .drw x y n) → t.disp = s.disp) ∧ t.keys = s.keys ∧ t.params = s.params

/-- No instruction reads `ST` (R30): changing it changes nothing but itself. -/
def Obligations.SoundTimerIsNeverRead : Prop :=
  ∀ (i : Instr) (s t : State) (b : Byte), exec i s = .next t →
    exec i { s with st := b } = .next { t with st := if (∃ x, i = .ldStVx x) then t.st else b }

/-- Only `SKP`, `SKNP` and `LD Vx, K` read the keys (R43, R242): for any other instruction other keys make no difference. -/
def Obligations.OnlyKeyInstructionsReadTheKeys : Prop :=
  ∀ (i : Instr) (s t : State) (ks : Vector Bool 16), (∀ x, i ≠ .skp x ∧ i ≠ .sknp x ∧ i ≠ .ldVxK x) →
    exec i s = .next t → exec i { s with keys := ks } = .next { t with keys := ks }

/-- Only `DRW` lets the display show in the registers: for any other instruction another display changes no other part. -/
def Obligations.OnlyDrawReadsTheDisplay : Prop :=
  ∀ (i : Instr) (s t : State) (d : Display), (∀ x y n, i ≠ .drw x y n) → exec i s = .next t →
    ∃ d', exec i { s with disp := d } = .next { t with disp := d' }

/-- Equal memories are equal lists: two canonical memories of one machine that read the same at every address are the
same. -/
def Obligations.CanonicalMemoriesThatReadTheSameAreEqual : Prop :=
  ∀ (p : Params) (m m' : Memory), m.wf p = true → m'.wf p = true → (∀ a, m.read p a = m'.read p a) → m = m'

/-! ### The invariant -/

/-- Every step keeps the invariant, from every state that has it: memory and display in canonical form, and the fault latch
consistent (R33, R235: clear while running; when halted it names the instruction at `PC` and the condition its word
raises). -/
def Obligations.StepKeepsTheInvariant : Prop :=
  ∀ s t : State, s.inv = true → step s = .next t → t.inv = true

/-- The invariant holds at reset, with any parameters and after a host reset from every state. -/
def Obligations.ResetHasTheInvariant : Prop :=
  (∀ p : Params, (State.resetWith p).inv = true) ∧ ∀ s : State, s.hostReset.inv = true

/-- Every move of the host and the environment keeps the invariant, from every system that has it: steps, ticks, loads,
resets, timer sets and key changes (R33, R136). -/
def Obligations.EveryMoveKeepsTheInvariant : Prop :=
  ∀ (a : Action) (y z : System), y.core.inv = true → y.act a = .next z → z.core.inv = true

/-- The invariant holds of everything the host and the environment can bring about, in any interleaving of steps, ticks,
loads, resets, timer sets and key changes (R33, R136). -/
def Obligations.EveryReachableSystemHasTheInvariant : Prop := ∀ y : System, Reachable y → y.core.inv = true

/-! ### Reset and the host -/

/-- The reset values (R45, R260): of a machine of any parameters, and after a host reset from any state, which leaves the
keys and the parameters. -/
def Obligations.ResetGivesTheListedValues : Prop :=
  (∀ p : Params, AtReset (State.resetWith p) ∧ (State.resetWith p).params = p) ∧
    ∀ s : State, AtReset s.hostReset ∧ s.hostReset.keys = s.keys ∧ s.hostReset.params = s.params

/-- The parameters (R6): the model's reset state is that of the machine they are given to, with the values this hardware
takes, FONT_BASE 0x000, the glyphs of R36 and a screen of 64 by 32; FONT_BASE is at most 0x1B0 on every machine, so that the
font stays inside 0x000 to 0x1FF (R35); and they are fixed at construction (R34): no move of the host, the environment or
the machine changes them. -/
def Obligations.ParametersAreThoseGivenAndStayFixed : Prop :=
  State.reset = State.resetWith State.reset.params ∧ StandardParameters State.reset.params ∧
    (∀ p : Params, p.fontBase.val ≤ 0x1B0 ∧ p.fontBase.val + 79 ≤ 0x1FF) ∧
    ∀ (moves : List Action) (y z : System), y.actAll moves = .next z → z.core.params = y.core.params

/-- One tick takes 1 from each timer that is above 0 and changes nothing else, halted or not (R137). -/
def Obligations.TickCountsDownToZero : Prop :=
  ∀ y : System, ∃ z, y.act .tick = .next z ∧ z.phase = y.phase ∧
    z.core.dt.toNat = (if y.core.dt.toNat > 0 then y.core.dt.toNat - 1 else 0) ∧
    z.core.st.toNat = (if y.core.st.toNat > 0 then y.core.st.toNat - 1 else 0) ∧
    z.core.pc = y.core.pc ∧ Frame [.delay, .sound] [] y.core z.core

/-- The load (R71): byte `k` of an image of at most 3584 bytes goes to `0x200 + k` and nothing else changes; a longer image
is refused. -/
def Obligations.LoadPlacesTheImage : Prop :=
  ∀ (image : List Byte) (s : State),
    (image.length ≤ 3584 → s.mem.wf s.params = true → ∃ z, System.act (.load image) ⟨s, .fresh⟩ = .next z ∧
      (∀ k (h : k < image.length), z.core.readMem (0x200 + k) = image[k]) ∧
      (∀ a < 4096, ¬(0x200 ≤ a ∧ a < 0x200 + image.length) → z.core.readMem a = s.readMem a) ∧
      z.core.pc = s.pc ∧ Frame [.mem] [] s z.core) ∧
    (image.length > 3584 → System.act (.load image) ⟨s, .fresh⟩ = .refused .imageTooLong)

/-- The host has no write to memory after the first step (R77): a load is then refused, and no other move but a step or a
reset changes memory. -/
def Obligations.HostNeverWritesMemoryAfterTheFirstStep : Prop :=
  (∀ (a : Action) (y z : System), y.phase = .running → a ≠ .reset → a ≠ .step → y.act a = .next z →
    z.core.mem = y.core.mem ∧ z.phase = .running) ∧
  (∀ (image : List Byte) (y : System), y.phase = .running → y.act (.load image) = .refused .loadOutOfTurn)

/-- A halted machine stays halted through any moves but a reset (R236): only the timers and the keys can change. -/
def Obligations.HaltedUntilReset : Prop :=
  ∀ (moves : List Action) (y z : System), y.core.halt = true → y.phase = .running → Action.reset ∉ moves →
    y.actAll moves = .next z →
      z.core.halt = true ∧ z.core = { y.core with dt := z.core.dt, st := z.core.st, keys := z.core.keys }
end

