-- ==== Sys2Proof/Laws/State.lean ====
section
/-! SUPPORT. One lemma per field per update of the state, all by rfl, so that no proof unfolds a record update; the
composite updates are rewritten to these. -/

namespace Sys2Proof.Machine

/-! ### setReg -/

@[simp] theorem setReg_params (s : State) (x : Reg) (b : Byte) : (s.setReg x b).params = s.params := rfl
@[simp] theorem setReg_v (s : State) (x : Reg) (b : Byte) : (s.setReg x b).v = s.v.set x b := rfl
@[simp] theorem setReg_i (s : State) (x : Reg) (b : Byte) : (s.setReg x b).i = s.i := rfl
@[simp] theorem setReg_pc (s : State) (x : Reg) (b : Byte) : (s.setReg x b).pc = s.pc := rfl
@[simp] theorem setReg_sp (s : State) (x : Reg) (b : Byte) : (s.setReg x b).sp = s.sp := rfl
@[simp] theorem setReg_stack (s : State) (x : Reg) (b : Byte) : (s.setReg x b).stack = s.stack := rfl
@[simp] theorem setReg_dt (s : State) (x : Reg) (b : Byte) : (s.setReg x b).dt = s.dt := rfl
@[simp] theorem setReg_st (s : State) (x : Reg) (b : Byte) : (s.setReg x b).st = s.st := rfl
@[simp] theorem setReg_mem (s : State) (x : Reg) (b : Byte) : (s.setReg x b).mem = s.mem := rfl
@[simp] theorem setReg_halt (s : State) (x : Reg) (b : Byte) : (s.setReg x b).halt = s.halt := rfl
@[simp] theorem setReg_cause (s : State) (x : Reg) (b : Byte) : (s.setReg x b).cause = s.cause := rfl
@[simp] theorem setReg_faddr (s : State) (x : Reg) (b : Byte) : (s.setReg x b).faddr = s.faddr := rfl
@[simp] theorem setReg_fword (s : State) (x : Reg) (b : Byte) : (s.setReg x b).fword = s.fword := rfl
@[simp] theorem setReg_disp (s : State) (x : Reg) (b : Byte) : (s.setReg x b).disp = s.disp := rfl
@[simp] theorem setReg_keys (s : State) (x : Reg) (b : Byte) : (s.setReg x b).keys = s.keys := rfl
@[simp] theorem setReg_draws (s : State) (x : Reg) (b : Byte) : (s.setReg x b).draws = s.draws := rfl
@[simp] theorem setReg_readMem (s : State) (x : Reg) (b : Byte) (m : Nat) : (s.setReg x b).readMem m = s.readMem m := rfl
@[simp] theorem setReg_stackEntry (s : State) (x : Reg) (b : Byte) (j : Nat) : (s.setReg x b).stackEntry j = s.stackEntry j := rfl
@[simp] theorem setReg_keyDown (s : State) (x : Reg) (b : Byte) (k : Fin 16) : (s.setReg x b).keyDown k = s.keyDown k := rfl
@[simp] theorem setReg_firstKeyDown (s : State) (x : Reg) (b : Byte) : (s.setReg x b).firstKeyDown = s.firstKeyDown := rfl
@[simp] theorem setReg_randomByte (s : State) (x : Reg) (b : Byte) : (s.setReg x b).randomByte = s.randomByte := rfl

/-! ### setI -/

@[simp] theorem setI_params (s : State) (a : Addr) : (s.setI a).params = s.params := rfl
@[simp] theorem setI_v (s : State) (a : Addr) : (s.setI a).v = s.v := rfl
@[simp] theorem setI_i (s : State) (a : Addr) : (s.setI a).i = a := rfl
@[simp] theorem setI_pc (s : State) (a : Addr) : (s.setI a).pc = s.pc := rfl
@[simp] theorem setI_sp (s : State) (a : Addr) : (s.setI a).sp = s.sp := rfl
@[simp] theorem setI_stack (s : State) (a : Addr) : (s.setI a).stack = s.stack := rfl
@[simp] theorem setI_dt (s : State) (a : Addr) : (s.setI a).dt = s.dt := rfl
@[simp] theorem setI_st (s : State) (a : Addr) : (s.setI a).st = s.st := rfl
@[simp] theorem setI_mem (s : State) (a : Addr) : (s.setI a).mem = s.mem := rfl
@[simp] theorem setI_halt (s : State) (a : Addr) : (s.setI a).halt = s.halt := rfl
@[simp] theorem setI_cause (s : State) (a : Addr) : (s.setI a).cause = s.cause := rfl
@[simp] theorem setI_faddr (s : State) (a : Addr) : (s.setI a).faddr = s.faddr := rfl
@[simp] theorem setI_fword (s : State) (a : Addr) : (s.setI a).fword = s.fword := rfl
@[simp] theorem setI_disp (s : State) (a : Addr) : (s.setI a).disp = s.disp := rfl
@[simp] theorem setI_keys (s : State) (a : Addr) : (s.setI a).keys = s.keys := rfl
@[simp] theorem setI_draws (s : State) (a : Addr) : (s.setI a).draws = s.draws := rfl
@[simp] theorem setI_reg (s : State) (a : Addr) (k : Reg) : (s.setI a).reg k = s.reg k := rfl
@[simp] theorem setI_readMem (s : State) (a : Addr) (m : Nat) : (s.setI a).readMem m = s.readMem m := rfl
@[simp] theorem setI_stackEntry (s : State) (a : Addr) (j : Nat) : (s.setI a).stackEntry j = s.stackEntry j := rfl
@[simp] theorem setI_keyDown (s : State) (a : Addr) (k : Fin 16) : (s.setI a).keyDown k = s.keyDown k := rfl
@[simp] theorem setI_firstKeyDown (s : State) (a : Addr) : (s.setI a).firstKeyDown = s.firstKeyDown := rfl
@[simp] theorem setI_randomByte (s : State) (a : Addr) : (s.setI a).randomByte = s.randomByte := rfl

/-! ### setPc -/

@[simp] theorem setPc_params (s : State) (a : Addr) : (s.setPc a).params = s.params := rfl
@[simp] theorem setPc_v (s : State) (a : Addr) : (s.setPc a).v = s.v := rfl
@[simp] theorem setPc_i (s : State) (a : Addr) : (s.setPc a).i = s.i := rfl
@[simp] theorem setPc_pc (s : State) (a : Addr) : (s.setPc a).pc = a := rfl
@[simp] theorem setPc_sp (s : State) (a : Addr) : (s.setPc a).sp = s.sp := rfl
@[simp] theorem setPc_stack (s : State) (a : Addr) : (s.setPc a).stack = s.stack := rfl
@[simp] theorem setPc_dt (s : State) (a : Addr) : (s.setPc a).dt = s.dt := rfl
@[simp] theorem setPc_st (s : State) (a : Addr) : (s.setPc a).st = s.st := rfl
@[simp] theorem setPc_mem (s : State) (a : Addr) : (s.setPc a).mem = s.mem := rfl
@[simp] theorem setPc_halt (s : State) (a : Addr) : (s.setPc a).halt = s.halt := rfl
@[simp] theorem setPc_cause (s : State) (a : Addr) : (s.setPc a).cause = s.cause := rfl
@[simp] theorem setPc_faddr (s : State) (a : Addr) : (s.setPc a).faddr = s.faddr := rfl
@[simp] theorem setPc_fword (s : State) (a : Addr) : (s.setPc a).fword = s.fword := rfl
@[simp] theorem setPc_disp (s : State) (a : Addr) : (s.setPc a).disp = s.disp := rfl
@[simp] theorem setPc_keys (s : State) (a : Addr) : (s.setPc a).keys = s.keys := rfl
@[simp] theorem setPc_draws (s : State) (a : Addr) : (s.setPc a).draws = s.draws := rfl
@[simp] theorem setPc_reg (s : State) (a : Addr) (k : Reg) : (s.setPc a).reg k = s.reg k := rfl
@[simp] theorem setPc_readMem (s : State) (a : Addr) (m : Nat) : (s.setPc a).readMem m = s.readMem m := rfl
@[simp] theorem setPc_stackEntry (s : State) (a : Addr) (j : Nat) : (s.setPc a).stackEntry j = s.stackEntry j := rfl
@[simp] theorem setPc_keyDown (s : State) (a : Addr) (k : Fin 16) : (s.setPc a).keyDown k = s.keyDown k := rfl
@[simp] theorem setPc_firstKeyDown (s : State) (a : Addr) : (s.setPc a).firstKeyDown = s.firstKeyDown := rfl
@[simp] theorem setPc_randomByte (s : State) (a : Addr) : (s.setPc a).randomByte = s.randomByte := rfl

/-! ### setDt -/

@[simp] theorem setDt_params (s : State) (b : Byte) : (s.setDt b).params = s.params := rfl
@[simp] theorem setDt_v (s : State) (b : Byte) : (s.setDt b).v = s.v := rfl
@[simp] theorem setDt_i (s : State) (b : Byte) : (s.setDt b).i = s.i := rfl
@[simp] theorem setDt_pc (s : State) (b : Byte) : (s.setDt b).pc = s.pc := rfl
@[simp] theorem setDt_sp (s : State) (b : Byte) : (s.setDt b).sp = s.sp := rfl
@[simp] theorem setDt_stack (s : State) (b : Byte) : (s.setDt b).stack = s.stack := rfl
@[simp] theorem setDt_dt (s : State) (b : Byte) : (s.setDt b).dt = b := rfl
@[simp] theorem setDt_st (s : State) (b : Byte) : (s.setDt b).st = s.st := rfl
@[simp] theorem setDt_mem (s : State) (b : Byte) : (s.setDt b).mem = s.mem := rfl
@[simp] theorem setDt_halt (s : State) (b : Byte) : (s.setDt b).halt = s.halt := rfl
@[simp] theorem setDt_cause (s : State) (b : Byte) : (s.setDt b).cause = s.cause := rfl
@[simp] theorem setDt_faddr (s : State) (b : Byte) : (s.setDt b).faddr = s.faddr := rfl
@[simp] theorem setDt_fword (s : State) (b : Byte) : (s.setDt b).fword = s.fword := rfl
@[simp] theorem setDt_disp (s : State) (b : Byte) : (s.setDt b).disp = s.disp := rfl
@[simp] theorem setDt_keys (s : State) (b : Byte) : (s.setDt b).keys = s.keys := rfl
@[simp] theorem setDt_draws (s : State) (b : Byte) : (s.setDt b).draws = s.draws := rfl
@[simp] theorem setDt_reg (s : State) (b : Byte) (k : Reg) : (s.setDt b).reg k = s.reg k := rfl
@[simp] theorem setDt_readMem (s : State) (b : Byte) (m : Nat) : (s.setDt b).readMem m = s.readMem m := rfl
@[simp] theorem setDt_stackEntry (s : State) (b : Byte) (j : Nat) : (s.setDt b).stackEntry j = s.stackEntry j := rfl
@[simp] theorem setDt_keyDown (s : State) (b : Byte) (k : Fin 16) : (s.setDt b).keyDown k = s.keyDown k := rfl
@[simp] theorem setDt_firstKeyDown (s : State) (b : Byte) : (s.setDt b).firstKeyDown = s.firstKeyDown := rfl
@[simp] theorem setDt_randomByte (s : State) (b : Byte) : (s.setDt b).randomByte = s.randomByte := rfl

/-! ### setSt -/

@[simp] theorem setSt_params (s : State) (b : Byte) : (s.setSt b).params = s.params := rfl
@[simp] theorem setSt_v (s : State) (b : Byte) : (s.setSt b).v = s.v := rfl
@[simp] theorem setSt_i (s : State) (b : Byte) : (s.setSt b).i = s.i := rfl
@[simp] theorem setSt_pc (s : State) (b : Byte) : (s.setSt b).pc = s.pc := rfl
@[simp] theorem setSt_sp (s : State) (b : Byte) : (s.setSt b).sp = s.sp := rfl
@[simp] theorem setSt_stack (s : State) (b : Byte) : (s.setSt b).stack = s.stack := rfl
@[simp] theorem setSt_dt (s : State) (b : Byte) : (s.setSt b).dt = s.dt := rfl
@[simp] theorem setSt_st (s : State) (b : Byte) : (s.setSt b).st = b := rfl
@[simp] theorem setSt_mem (s : State) (b : Byte) : (s.setSt b).mem = s.mem := rfl
@[simp] theorem setSt_halt (s : State) (b : Byte) : (s.setSt b).halt = s.halt := rfl
@[simp] theorem setSt_cause (s : State) (b : Byte) : (s.setSt b).cause = s.cause := rfl
@[simp] theorem setSt_faddr (s : State) (b : Byte) : (s.setSt b).faddr = s.faddr := rfl
@[simp] theorem setSt_fword (s : State) (b : Byte) : (s.setSt b).fword = s.fword := rfl
@[simp] theorem setSt_disp (s : State) (b : Byte) : (s.setSt b).disp = s.disp := rfl
@[simp] theorem setSt_keys (s : State) (b : Byte) : (s.setSt b).keys = s.keys := rfl
@[simp] theorem setSt_draws (s : State) (b : Byte) : (s.setSt b).draws = s.draws := rfl
@[simp] theorem setSt_reg (s : State) (b : Byte) (k : Reg) : (s.setSt b).reg k = s.reg k := rfl
@[simp] theorem setSt_readMem (s : State) (b : Byte) (m : Nat) : (s.setSt b).readMem m = s.readMem m := rfl
@[simp] theorem setSt_stackEntry (s : State) (b : Byte) (j : Nat) : (s.setSt b).stackEntry j = s.stackEntry j := rfl
@[simp] theorem setSt_keyDown (s : State) (b : Byte) (k : Fin 16) : (s.setSt b).keyDown k = s.keyDown k := rfl
@[simp] theorem setSt_firstKeyDown (s : State) (b : Byte) : (s.setSt b).firstKeyDown = s.firstKeyDown := rfl
@[simp] theorem setSt_randomByte (s : State) (b : Byte) : (s.setSt b).randomByte = s.randomByte := rfl

/-! ### writeMem -/

@[simp] theorem writeMem_params (s : State) (a : Nat) (b : Byte) : (s.writeMem a b).params = s.params := rfl
@[simp] theorem writeMem_v (s : State) (a : Nat) (b : Byte) : (s.writeMem a b).v = s.v := rfl
@[simp] theorem writeMem_i (s : State) (a : Nat) (b : Byte) : (s.writeMem a b).i = s.i := rfl
@[simp] theorem writeMem_pc (s : State) (a : Nat) (b : Byte) : (s.writeMem a b).pc = s.pc := rfl
@[simp] theorem writeMem_sp (s : State) (a : Nat) (b : Byte) : (s.writeMem a b).sp = s.sp := rfl
@[simp] theorem writeMem_stack (s : State) (a : Nat) (b : Byte) : (s.writeMem a b).stack = s.stack := rfl
@[simp] theorem writeMem_dt (s : State) (a : Nat) (b : Byte) : (s.writeMem a b).dt = s.dt := rfl
@[simp] theorem writeMem_st (s : State) (a : Nat) (b : Byte) : (s.writeMem a b).st = s.st := rfl
@[simp] theorem writeMem_mem (s : State) (a : Nat) (b : Byte) : (s.writeMem a b).mem = s.mem.write s.params a b := rfl
@[simp] theorem writeMem_halt (s : State) (a : Nat) (b : Byte) : (s.writeMem a b).halt = s.halt := rfl
@[simp] theorem writeMem_cause (s : State) (a : Nat) (b : Byte) : (s.writeMem a b).cause = s.cause := rfl
@[simp] theorem writeMem_faddr (s : State) (a : Nat) (b : Byte) : (s.writeMem a b).faddr = s.faddr := rfl
@[simp] theorem writeMem_fword (s : State) (a : Nat) (b : Byte) : (s.writeMem a b).fword = s.fword := rfl
@[simp] theorem writeMem_disp (s : State) (a : Nat) (b : Byte) : (s.writeMem a b).disp = s.disp := rfl
@[simp] theorem writeMem_keys (s : State) (a : Nat) (b : Byte) : (s.writeMem a b).keys = s.keys := rfl
@[simp] theorem writeMem_draws (s : State) (a : Nat) (b : Byte) : (s.writeMem a b).draws = s.draws := rfl
@[simp] theorem writeMem_reg (s : State) (a : Nat) (b : Byte) (k : Reg) : (s.writeMem a b).reg k = s.reg k := rfl
@[simp] theorem writeMem_stackEntry (s : State) (a : Nat) (b : Byte) (j : Nat) : (s.writeMem a b).stackEntry j = s.stackEntry j := rfl
@[simp] theorem writeMem_keyDown (s : State) (a : Nat) (b : Byte) (k : Fin 16) : (s.writeMem a b).keyDown k = s.keyDown k := rfl
@[simp] theorem writeMem_firstKeyDown (s : State) (a : Nat) (b : Byte) : (s.writeMem a b).firstKeyDown = s.firstKeyDown := rfl
@[simp] theorem writeMem_randomByte (s : State) (a : Nat) (b : Byte) : (s.writeMem a b).randomByte = s.randomByte := rfl

/-! ### setDisplay -/

@[simp] theorem setDisplay_params (s : State) (d : Display) : (s.setDisplay d).params = s.params := rfl
@[simp] theorem setDisplay_v (s : State) (d : Display) : (s.setDisplay d).v = s.v := rfl
@[simp] theorem setDisplay_i (s : State) (d : Display) : (s.setDisplay d).i = s.i := rfl
@[simp] theorem setDisplay_pc (s : State) (d : Display) : (s.setDisplay d).pc = s.pc := rfl
@[simp] theorem setDisplay_sp (s : State) (d : Display) : (s.setDisplay d).sp = s.sp := rfl
@[simp] theorem setDisplay_stack (s : State) (d : Display) : (s.setDisplay d).stack = s.stack := rfl
@[simp] theorem setDisplay_dt (s : State) (d : Display) : (s.setDisplay d).dt = s.dt := rfl
@[simp] theorem setDisplay_st (s : State) (d : Display) : (s.setDisplay d).st = s.st := rfl
@[simp] theorem setDisplay_mem (s : State) (d : Display) : (s.setDisplay d).mem = s.mem := rfl
@[simp] theorem setDisplay_halt (s : State) (d : Display) : (s.setDisplay d).halt = s.halt := rfl
@[simp] theorem setDisplay_cause (s : State) (d : Display) : (s.setDisplay d).cause = s.cause := rfl
@[simp] theorem setDisplay_faddr (s : State) (d : Display) : (s.setDisplay d).faddr = s.faddr := rfl
@[simp] theorem setDisplay_fword (s : State) (d : Display) : (s.setDisplay d).fword = s.fword := rfl
@[simp] theorem setDisplay_disp (s : State) (d : Display) : (s.setDisplay d).disp = d := rfl
@[simp] theorem setDisplay_keys (s : State) (d : Display) : (s.setDisplay d).keys = s.keys := rfl
@[simp] theorem setDisplay_draws (s : State) (d : Display) : (s.setDisplay d).draws = s.draws := rfl
@[simp] theorem setDisplay_reg (s : State) (d : Display) (k : Reg) : (s.setDisplay d).reg k = s.reg k := rfl
@[simp] theorem setDisplay_readMem (s : State) (d : Display) (m : Nat) : (s.setDisplay d).readMem m = s.readMem m := rfl
@[simp] theorem setDisplay_stackEntry (s : State) (d : Display) (j : Nat) : (s.setDisplay d).stackEntry j = s.stackEntry j := rfl
@[simp] theorem setDisplay_keyDown (s : State) (d : Display) (k : Fin 16) : (s.setDisplay d).keyDown k = s.keyDown k := rfl
@[simp] theorem setDisplay_firstKeyDown (s : State) (d : Display) : (s.setDisplay d).firstKeyDown = s.firstKeyDown := rfl
@[simp] theorem setDisplay_randomByte (s : State) (d : Display) : (s.setDisplay d).randomByte = s.randomByte := rfl

/-! ### countDraw -/

@[simp] theorem countDraw_params (s : State) : (s.countDraw).params = s.params := rfl
@[simp] theorem countDraw_v (s : State) : (s.countDraw).v = s.v := rfl
@[simp] theorem countDraw_i (s : State) : (s.countDraw).i = s.i := rfl
@[simp] theorem countDraw_pc (s : State) : (s.countDraw).pc = s.pc := rfl
@[simp] theorem countDraw_sp (s : State) : (s.countDraw).sp = s.sp := rfl
@[simp] theorem countDraw_stack (s : State) : (s.countDraw).stack = s.stack := rfl
@[simp] theorem countDraw_dt (s : State) : (s.countDraw).dt = s.dt := rfl
@[simp] theorem countDraw_st (s : State) : (s.countDraw).st = s.st := rfl
@[simp] theorem countDraw_mem (s : State) : (s.countDraw).mem = s.mem := rfl
@[simp] theorem countDraw_halt (s : State) : (s.countDraw).halt = s.halt := rfl
@[simp] theorem countDraw_cause (s : State) : (s.countDraw).cause = s.cause := rfl
@[simp] theorem countDraw_faddr (s : State) : (s.countDraw).faddr = s.faddr := rfl
@[simp] theorem countDraw_fword (s : State) : (s.countDraw).fword = s.fword := rfl
@[simp] theorem countDraw_disp (s : State) : (s.countDraw).disp = s.disp := rfl
@[simp] theorem countDraw_keys (s : State) : (s.countDraw).keys = s.keys := rfl
@[simp] theorem countDraw_draws (s : State) : (s.countDraw).draws = s.draws + 1 := rfl
@[simp] theorem countDraw_reg (s : State) (k : Reg) : (s.countDraw).reg k = s.reg k := rfl
@[simp] theorem countDraw_readMem (s : State) (m : Nat) : (s.countDraw).readMem m = s.readMem m := rfl
@[simp] theorem countDraw_stackEntry (s : State) (j : Nat) : (s.countDraw).stackEntry j = s.stackEntry j := rfl
@[simp] theorem countDraw_keyDown (s : State) (k : Fin 16) : (s.countDraw).keyDown k = s.keyDown k := rfl
@[simp] theorem countDraw_firstKeyDown (s : State) : (s.countDraw).firstKeyDown = s.firstKeyDown := rfl

/-! ### setKeys -/

@[simp] theorem setKeys_params (s : State) (k : Vector Bool 16) : (s.setKeys k).params = s.params := rfl
@[simp] theorem setKeys_v (s : State) (k : Vector Bool 16) : (s.setKeys k).v = s.v := rfl
@[simp] theorem setKeys_i (s : State) (k : Vector Bool 16) : (s.setKeys k).i = s.i := rfl
@[simp] theorem setKeys_pc (s : State) (k : Vector Bool 16) : (s.setKeys k).pc = s.pc := rfl
@[simp] theorem setKeys_sp (s : State) (k : Vector Bool 16) : (s.setKeys k).sp = s.sp := rfl
@[simp] theorem setKeys_stack (s : State) (k : Vector Bool 16) : (s.setKeys k).stack = s.stack := rfl
@[simp] theorem setKeys_dt (s : State) (k : Vector Bool 16) : (s.setKeys k).dt = s.dt := rfl
@[simp] theorem setKeys_st (s : State) (k : Vector Bool 16) : (s.setKeys k).st = s.st := rfl
@[simp] theorem setKeys_mem (s : State) (k : Vector Bool 16) : (s.setKeys k).mem = s.mem := rfl
@[simp] theorem setKeys_halt (s : State) (k : Vector Bool 16) : (s.setKeys k).halt = s.halt := rfl
@[simp] theorem setKeys_cause (s : State) (k : Vector Bool 16) : (s.setKeys k).cause = s.cause := rfl
@[simp] theorem setKeys_faddr (s : State) (k : Vector Bool 16) : (s.setKeys k).faddr = s.faddr := rfl
@[simp] theorem setKeys_fword (s : State) (k : Vector Bool 16) : (s.setKeys k).fword = s.fword := rfl
@[simp] theorem setKeys_disp (s : State) (k : Vector Bool 16) : (s.setKeys k).disp = s.disp := rfl
@[simp] theorem setKeys_keys (s : State) (k : Vector Bool 16) : (s.setKeys k).keys = k := rfl
@[simp] theorem setKeys_draws (s : State) (k : Vector Bool 16) : (s.setKeys k).draws = s.draws := rfl
@[simp] theorem setKeys_reg (s : State) (k : Vector Bool 16) (r : Reg) : (s.setKeys k).reg r = s.reg r := rfl
@[simp] theorem setKeys_readMem (s : State) (k : Vector Bool 16) (m : Nat) : (s.setKeys k).readMem m = s.readMem m := rfl
@[simp] theorem setKeys_stackEntry (s : State) (k : Vector Bool 16) (j : Nat) : (s.setKeys k).stackEntry j = s.stackEntry j := rfl
@[simp] theorem setKeys_randomByte (s : State) (k : Vector Bool 16) : (s.setKeys k).randomByte = s.randomByte := rfl

/-! ### raiseFatal -/

@[simp] theorem raiseFatal_params (s : State) (c : Cause) (w : Word) : (s.raiseFatal c w).params = s.params := rfl
@[simp] theorem raiseFatal_v (s : State) (c : Cause) (w : Word) : (s.raiseFatal c w).v = s.v := rfl
@[simp] theorem raiseFatal_i (s : State) (c : Cause) (w : Word) : (s.raiseFatal c w).i = s.i := rfl
@[simp] theorem raiseFatal_pc (s : State) (c : Cause) (w : Word) : (s.raiseFatal c w).pc = s.pc := rfl
@[simp] theorem raiseFatal_sp (s : State) (c : Cause) (w : Word) : (s.raiseFatal c w).sp = s.sp := rfl
@[simp] theorem raiseFatal_stack (s : State) (c : Cause) (w : Word) : (s.raiseFatal c w).stack = s.stack := rfl
@[simp] theorem raiseFatal_dt (s : State) (c : Cause) (w : Word) : (s.raiseFatal c w).dt = s.dt := rfl
@[simp] theorem raiseFatal_st (s : State) (c : Cause) (w : Word) : (s.raiseFatal c w).st = s.st := rfl
@[simp] theorem raiseFatal_mem (s : State) (c : Cause) (w : Word) : (s.raiseFatal c w).mem = s.mem := rfl
@[simp] theorem raiseFatal_halt (s : State) (c : Cause) (w : Word) : (s.raiseFatal c w).halt = true := rfl
@[simp] theorem raiseFatal_cause (s : State) (c : Cause) (w : Word) : (s.raiseFatal c w).cause = c.code := rfl
@[simp] theorem raiseFatal_faddr (s : State) (c : Cause) (w : Word) : (s.raiseFatal c w).faddr = s.pc := rfl
@[simp] theorem raiseFatal_fword (s : State) (c : Cause) (w : Word) : (s.raiseFatal c w).fword = w := rfl
@[simp] theorem raiseFatal_disp (s : State) (c : Cause) (w : Word) : (s.raiseFatal c w).disp = s.disp := rfl
@[simp] theorem raiseFatal_keys (s : State) (c : Cause) (w : Word) : (s.raiseFatal c w).keys = s.keys := rfl
@[simp] theorem raiseFatal_draws (s : State) (c : Cause) (w : Word) : (s.raiseFatal c w).draws = s.draws := rfl
@[simp] theorem raiseFatal_reg (s : State) (c : Cause) (w : Word) (k : Reg) : (s.raiseFatal c w).reg k = s.reg k := rfl
@[simp] theorem raiseFatal_readMem (s : State) (c : Cause) (w : Word) (m : Nat) : (s.raiseFatal c w).readMem m = s.readMem m := rfl
@[simp] theorem raiseFatal_stackEntry (s : State) (c : Cause) (w : Word) (j : Nat) : (s.raiseFatal c w).stackEntry j = s.stackEntry j := rfl
@[simp] theorem raiseFatal_keyDown (s : State) (c : Cause) (w : Word) (k : Fin 16) : (s.raiseFatal c w).keyDown k = s.keyDown k := rfl
@[simp] theorem raiseFatal_firstKeyDown (s : State) (c : Cause) (w : Word) : (s.raiseFatal c w).firstKeyDown = s.firstKeyDown := rfl
@[simp] theorem raiseFatal_randomByte (s : State) (c : Cause) (w : Word) : (s.raiseFatal c w).randomByte = s.randomByte := rfl

/-! ### loadBlock -/

@[simp] theorem loadBlock_params (s : State) (x : Reg) : (s.loadBlock x).params = s.params := rfl
@[simp] theorem loadBlock_v (s : State) (x : Reg) : (s.loadBlock x).v = Vector.ofFn fun k : Fin 16 => if k ≤ x then s.readMem (s.i.toNat + k.val) else s.reg k := rfl
@[simp] theorem loadBlock_i (s : State) (x : Reg) : (s.loadBlock x).i = s.i := rfl
@[simp] theorem loadBlock_pc (s : State) (x : Reg) : (s.loadBlock x).pc = s.pc := rfl
@[simp] theorem loadBlock_sp (s : State) (x : Reg) : (s.loadBlock x).sp = s.sp := rfl
@[simp] theorem loadBlock_stack (s : State) (x : Reg) : (s.loadBlock x).stack = s.stack := rfl
@[simp] theorem loadBlock_dt (s : State) (x : Reg) : (s.loadBlock x).dt = s.dt := rfl
@[simp] theorem loadBlock_st (s : State) (x : Reg) : (s.loadBlock x).st = s.st := rfl
@[simp] theorem loadBlock_mem (s : State) (x : Reg) : (s.loadBlock x).mem = s.mem := rfl
@[simp] theorem loadBlock_halt (s : State) (x : Reg) : (s.loadBlock x).halt = s.halt := rfl
@[simp] theorem loadBlock_cause (s : State) (x : Reg) : (s.loadBlock x).cause = s.cause := rfl
@[simp] theorem loadBlock_faddr (s : State) (x : Reg) : (s.loadBlock x).faddr = s.faddr := rfl
@[simp] theorem loadBlock_fword (s : State) (x : Reg) : (s.loadBlock x).fword = s.fword := rfl
@[simp] theorem loadBlock_disp (s : State) (x : Reg) : (s.loadBlock x).disp = s.disp := rfl
@[simp] theorem loadBlock_keys (s : State) (x : Reg) : (s.loadBlock x).keys = s.keys := rfl
@[simp] theorem loadBlock_draws (s : State) (x : Reg) : (s.loadBlock x).draws = s.draws := rfl
@[simp] theorem loadBlock_readMem (s : State) (x : Reg) (m : Nat) : (s.loadBlock x).readMem m = s.readMem m := rfl
@[simp] theorem loadBlock_stackEntry (s : State) (x : Reg) (j : Nat) : (s.loadBlock x).stackEntry j = s.stackEntry j := rfl
@[simp] theorem loadBlock_keyDown (s : State) (x : Reg) (k : Fin 16) : (s.loadBlock x).keyDown k = s.keyDown k := rfl
@[simp] theorem loadBlock_firstKeyDown (s : State) (x : Reg) : (s.loadBlock x).firstKeyDown = s.firstKeyDown := rfl
@[simp] theorem loadBlock_randomByte (s : State) (x : Reg) : (s.loadBlock x).randomByte = s.randomByte := rfl

/-! ### Composite updates, in terms of the plain ones -/

@[simp] theorem advance_eq (s : State) : s.advance = s.setPc (s.pc + 2) := rfl
@[simp] theorem skipIf_eq (s : State) (c : Bool) : s.skipIf c = s.setPc (s.pc + if c then 4 else 2) := rfl
@[simp] theorem setFlag_eq (s : State) (b : Bool) : s.setFlag b = s.setReg flagReg (flagByte b) := rfl
@[simp] theorem clearDisplay_eq (s : State) : s.clearDisplay = s.setDisplay [] := rfl
@[simp] theorem tick_eq (s : State) : s.tick = (s.setDt (timerDown s.dt)).setSt (timerDown s.st) := rfl
@[simp] theorem fatal_eq (c : Cause) (i : Instr) (s : State) : fatal c i s = .next (s.raiseFatal c (encode i)) := rfl

/-! ### A register read after a register write -/

theorem reg_eq (s : State) (k : Reg) : s.reg k = s.v[k] := rfl

/-- A write to register `x` gives `b` there and leaves every other register (R20). -/
@[simp] theorem setReg_reg (s : State) (x k : Reg) (b : Byte) :
    (s.setReg x b).reg k = if k = x then b else s.reg k := by
  simp only [State.reg, State.setReg, Fin.getElem_fin, Vector.getElem_set]
  by_cases h : k = x
  · simp [h]
  · have : ¬ (x.val = k.val) := fun e => h (Fin.ext e.symm)
    simp [h, this]

/-- A block load gives the registers up to `X` the bytes from `I` on and leaves the others (R185). -/
@[simp] theorem loadBlock_reg (s : State) (x k : Reg) :
    (s.loadBlock x).reg k = if k ≤ x then s.readMem (s.i.toNat + k.val) else s.reg k := by
  simp only [State.reg, State.loadBlock, Fin.getElem_fin, Vector.getElem_ofFn]

end Sys2Proof.Machine
end

