-- ==== Sys2Proof/Laws/Memory.lean ====
section
/-! SUPPORT. The laws of memory: read after write, the canonical form, and equal reads make equal lists. -/

namespace Sys2Proof.Machine

variable {p : Params}

theorem wf_cons (a : Nat) (u : Byte) (rest : Memory) :
    Memory.wf p ((a, u) :: rest) = true ↔
      (a < Config.memSize ∧ u ≠ p.initialByte a ∧ ∀ c ∈ rest, a < c.1) ∧ Memory.wf p rest = true := by
  simp [Memory.wf, and_assoc]

/-- An address below every listed one reads as the reset contents. -/
theorem lookup_below (m : Memory) (a : Nat) (h : ∀ c ∈ m, a < c.1) : Memory.lookup p m a = p.initialByte a := by
  induction m with
  | nil => rfl
  | cons c rest ih =>
    have hc : a ≠ c.1 := (h c (by simp)).ne
    simp [Memory.lookup, hc, ih fun e he => h e (by simp [he])]

/-- A write leaves the byte of every other address. -/
theorem lookup_put_other (m : Memory) (a b : Nat) (u : Byte) (h : b ≠ a) :
    Memory.lookup p (Memory.put p m a u) b = Memory.lookup p m b := by
  induction m with
  | nil => by_cases hu : u = p.initialByte a <;> simp [Memory.put, Memory.lookup, hu, h]
  | cons c rest ih =>
    obtain ⟨e, w⟩ := c
    by_cases h1 : a < e
    · by_cases hu : u = p.initialByte a <;> simp [Memory.put, Memory.lookup, h1, hu, h]
    · by_cases h2 : a = e
      · subst h2
        by_cases hu : u = p.initialByte a <;> simp [Memory.put, Memory.lookup, hu, h]
      · simp [Memory.put, Memory.lookup, h1, h2, ih]

/-- A read of the address just written gives the byte written, on a canonical memory. -/
theorem lookup_put_same (m : Memory) (a : Nat) (u : Byte) (hm : m.wf p = true) :
    Memory.lookup p (Memory.put p m a u) a = u := by
  induction m with
  | nil => by_cases hu : u = p.initialByte a <;> simp [Memory.put, Memory.lookup, hu]
  | cons c rest ih =>
    obtain ⟨e, w⟩ := c
    obtain ⟨⟨_, _, hb⟩, hr⟩ := (wf_cons e w rest).1 hm
    by_cases h1 : a < e
    · by_cases hu : u = p.initialByte a
      · have : Memory.lookup p ((e, w) :: rest) a = p.initialByte a :=
          lookup_below _ _ (by rintro ⟨f, x⟩ hf; rcases List.mem_cons.1 hf with hf | hf
                               · simp_all
                               · exact h1.trans (hb _ hf))
        simp [Memory.put, h1, hu, this]
      · simp [Memory.put, Memory.lookup, h1, hu]
    · by_cases h2 : a = e
      · subst h2
        by_cases hu : u = p.initialByte a
        · simp [Memory.put, hu, lookup_below rest a hb]
        · simp [Memory.put, Memory.lookup, hu]
      · simp [Memory.put, Memory.lookup, h1, h2, ih hr]

/-- What a write can put in the list: its own address, or what was there. -/
theorem mem_put (m : Memory) (a : Nat) (u : Byte) (c : Host.Cell) (h : c ∈ Memory.put p m a u) :
    c = (a, u) ∨ c ∈ m := by
  induction m with
  | nil => by_cases hu : u = p.initialByte a <;> simp_all [Memory.put]
  | cons e rest ih =>
    obtain ⟨e, w⟩ := e
    by_cases h1 : a < e
    · by_cases hu : u = p.initialByte a
      · exact .inr (by simpa [Memory.put, h1, hu] using h)
      · simpa [Memory.put, h1, hu] using h
    · by_cases h2 : a = e
      · subst h2
        by_cases hu : u = p.initialByte a
        · exact .inr (List.mem_cons_of_mem _ (by simpa [Memory.put, hu] using h))
        · rcases List.mem_cons.1 (by simpa [Memory.put, hu] using h) with h | h
          · exact .inl h
          · exact .inr (List.mem_cons_of_mem _ h)
      · rcases List.mem_cons.1 (by simpa [Memory.put, h1, h2] using h) with h | h
        · exact .inr (by simp [h])
        · exact (ih h).imp id (List.mem_cons_of_mem _)

/-- A write keeps the canonical form. -/
theorem put_wf (m : Memory) (a : Nat) (u : Byte) (ha : a < Config.memSize) (hm : m.wf p = true) :
    (Memory.put p m a u).wf p = true := by
  induction m with
  | nil =>
    by_cases hu : u = p.initialByte a
    · simp [Memory.put, hu, Memory.wf]
    · simp [Memory.put, hu, Memory.wf, ha]
  | cons c rest ih =>
    obtain ⟨e, w⟩ := c
    obtain ⟨⟨he, hw, hb⟩, hr⟩ := (wf_cons e w rest).1 hm
    by_cases h1 : a < e
    · by_cases hu : u = p.initialByte a
      · simpa [Memory.put, h1, hu] using hm
      · simp only [Memory.put, h1, hu, if_true, if_false]
        refine (wf_cons _ _ _).2 ⟨⟨ha, hu, ?_⟩, hm⟩
        rintro f hf
        rcases List.mem_cons.1 hf with rfl | hf
        · exact h1
        · exact h1.trans (hb f hf)
    · by_cases h2 : a = e
      · subst h2
        by_cases hu : u = p.initialByte a
        · simpa [Memory.put, hu] using hr
        · simp only [Memory.put, hu, lt_irrefl, if_false, if_true]
          exact (wf_cons _ _ _).2 ⟨⟨ha, hu, hb⟩, hr⟩
      · simp only [Memory.put, h1, h2, if_false]
        refine (wf_cons _ _ _).2 ⟨⟨he, hw, ?_⟩, ih hr⟩
        intro f hf
        rcases mem_put rest a u f hf with rfl | hf
        · show e < a
          omega
        · exact hb f hf

/-! ### The primitives (R63, R64) -/

/-- The reduction mod 4096 is part of the read (R63). -/
@[simp] theorem read_mod (m : Memory) (a : Nat) : m.read p (a % 4096) = m.read p a := by
  simp [Memory.read]

/-- A write leaves every other byte of memory. -/
theorem read_write_other (m : Memory) (a b : Nat) (u : Byte) (h : b % 4096 ≠ a % 4096) :
    (m.write p a u).read p b = m.read p b := lookup_put_other m _ _ u h

/-- A read of the address just written gives the byte written (R72 (3)). -/
theorem read_write_same (m : Memory) (a b : Nat) (u : Byte) (hm : m.wf p = true) (h : b % 4096 = a % 4096) :
    (m.write p a u).read p b = u := by
  simp only [Memory.read, Memory.write, h]
  exact lookup_put_same m _ u hm

/-- A write keeps the canonical form. -/
theorem write_wf (m : Memory) (a : Nat) (u : Byte) (hm : m.wf p = true) : (m.write p a u).wf p = true :=
  put_wf m _ u (Nat.mod_lt _ (by decide)) hm

/-- The reset memory is canonical. -/
theorem reset_mem_wf : State.reset.mem.wf p = true := rfl

/-! ### Bytes stored in a row (R67) -/

/-- A row of stores changes memory only. -/
theorem writeBytes_eq (s : State) (a : Nat) (bs : List Byte) :
    s.writeBytes a bs = { s with mem := (s.writeBytes a bs).mem } := by
  induction bs generalizing s a with
  | nil => rfl
  | cons b bs ih => rw [State.writeBytes, ih]; rfl

/-- A row of stores keeps the canonical form. -/
theorem writeBytes_wf (s : State) (a : Nat) (bs : List Byte) (hm : s.mem.wf s.params = true) :
    (s.writeBytes a bs).mem.wf s.params = true := by
  induction bs generalizing s a with
  | nil => exact hm
  | cons b bs ih => exact ih (s.writeMem a b) (a + 1) (write_wf _ _ _ hm)

/-- A row of stores leaves every byte outside it. -/
theorem writeBytes_other (s : State) (a : Nat) (bs : List Byte) (c : Nat)
    (h : ∀ k < bs.length, c % 4096 ≠ (a + k) % 4096) : (s.writeBytes a bs).readMem c = s.readMem c := by
  induction bs generalizing s a with
  | nil => rfl
  | cons b bs ih =>
    rw [State.writeBytes, ih]
    · exact read_write_other _ _ _ _ (by simpa using h 0 (by simp))
    · intro k hk
      have := h (k + 1) (by simpa using hk)
      rwa [show a + 1 + k = a + (k + 1) by omega]

/-- A row of at most 4096 stores puts byte `k` at address `a + k`. -/
theorem writeBytes_same (s : State) (a : Nat) (bs : List Byte) (k : Nat) (hm : s.mem.wf s.params = true)
    (hl : bs.length ≤ 4096) (hk : k < bs.length) : (s.writeBytes a bs).readMem (a + k) = bs[k] := by
  induction bs generalizing s a k with
  | nil => simp at hk
  | cons b bs ih =>
    simp only [List.length_cons] at hl hk
    cases k with
    | zero =>
      rw [State.writeBytes, writeBytes_other]
      · exact read_write_same _ _ _ _ hm rfl
      · intro k hk'
        omega
    | succ k =>
      have := ih (s.writeMem a b) (a + 1) k (write_wf _ _ _ hm) (by omega) (by omega)
      simpa [State.writeBytes, show a + 1 + k = a + (k + 1) by omega] using this

end Sys2Proof.Machine
end

