-- ==== Sys2Proof/Laws/Display.lean ====
section
/-! SUPPORT. The laws of the display: what a toggle and a blit do to each cell, and the canonical form. -/

namespace Sys2Proof.Machine

variable {p : Params}

/-- `c` stands before `e` in the list's order. -/
theorem before_iff (c e : Cell) : Cell.before c e = true ↔ c.2 < e.2 ∨ (c.2 = e.2 ∧ c.1 < e.1) := by
  simp [Cell.before]

theorem before_trans {c e f : Cell} (h : Cell.before c e = true) (h' : Cell.before e f = true) :
    Cell.before c f = true := by
  rw [before_iff] at *
  omega

theorem before_ne {c e : Cell} (h : Cell.before c e = true) : c ≠ e := by
  rintro rfl
  rw [before_iff] at h
  omega

/-- Two cells neither of which stands before the other are the same. -/
theorem before_total {c e : Cell} (h : c ≠ e) (h' : Cell.before c e ≠ true) : Cell.before e c = true := by
  rw [ne_eq, before_iff] at h'
  rw [before_iff]
  have : ¬ (c.1 = e.1 ∧ c.2 = e.2) := fun hh => h (Prod.ext hh.1 hh.2)
  omega

theorem disp_wf_cons (c : Cell) (rest : Display) :
    Display.wf p (c :: rest) = true ↔
      (c.1 < p.screenW.val ∧ c.2 < p.screenH.val ∧ ∀ e ∈ rest, Cell.before c e = true) ∧
        Display.wf p rest = true := by
  simp [Display.wf, and_assoc]

/-- A toggle leaves every other cell (R42). -/
theorem cell_toggle_other (d : Display) (c e : Cell) (h : e ≠ c) : (d.toggle c).cell e = d.cell e := by
  induction d with
  | nil => simp [Display.toggle, Display.cell, h]
  | cons f rest ih =>
    simp only [Display.cell, List.contains_eq_mem, decide_eq_decide] at ih ⊢
    by_cases h1 : c = f
    · subst h1
      simp [Display.toggle, h]
    · by_cases h2 : Cell.before c f = true
      · simp [Display.toggle, h1, h2, h]
      · simp [Display.toggle, h1, h2, ih]

/-- A toggle turns its cell over (R42). -/
theorem cell_toggle_same (d : Display) (c : Cell) (hd : d.wf p = true) : (d.toggle c).cell c = !d.cell c := by
  induction d with
  | nil => simp [Display.toggle, Display.cell]
  | cons f rest ih =>
    obtain ⟨⟨_, _, hb⟩, hr⟩ := (disp_wf_cons f rest).1 hd
    simp only [Display.cell, List.contains_eq_mem] at ih ⊢
    by_cases h1 : c = f
    · subst h1
      have : c ∉ rest := fun hc => before_ne (hb c hc) rfl
      simp [Display.toggle, this]
    · by_cases h2 : Cell.before c f = true
      · have : c ∉ rest := fun hc => before_ne (before_trans h2 (hb c hc)) rfl
        simp [Display.toggle, h1, h2, this]
      · simpa [Display.toggle, h1, h2] using ih hr

theorem mem_toggle (d : Display) (c e : Cell) (h : e ∈ d.toggle c) : e = c ∨ e ∈ d := by
  by_cases hc : e = c
  · exact .inl hc
  · have := cell_toggle_other d c e hc
    simp only [Display.cell, List.contains_eq_mem, decide_eq_decide] at this
    exact .inr (this.1 h)

/-- A toggle of a cell of the screen keeps the canonical form. -/
theorem toggle_wf (d : Display) (c : Cell) (hx : c.1 < p.screenW.val) (hy : c.2 < p.screenH.val)
    (hd : d.wf p = true) : (d.toggle c).wf p = true := by
  induction d with
  | nil => simp [Display.toggle, Display.wf, hx, hy]
  | cons f rest ih =>
    obtain ⟨⟨hfx, hfy, hb⟩, hr⟩ := (disp_wf_cons f rest).1 hd
    by_cases h1 : c = f
    · simpa [Display.toggle, h1] using hr
    · by_cases h2 : Cell.before c f = true
      · simp only [Display.toggle, h1, h2, if_true, if_false]
        refine (disp_wf_cons _ _).2 ⟨⟨hx, hy, ?_⟩, hd⟩
        intro e he
        rcases List.mem_cons.1 he with rfl | he
        · exact h2
        · exact before_trans h2 (hb e he)
      · simp only [Display.toggle, h1, h2, if_false]
        refine (disp_wf_cons _ _).2 ⟨⟨hfx, hfy, ?_⟩, ih hr⟩
        intro e he
        rcases mem_toggle rest c e he with rfl | he
        · exact before_total h1 h2
        · exact hb e he

/-! ### A blit (R191) -/

/-- A blit of cells of the screen keeps the canonical form. -/
theorem blit_wf (cs : List Cell) (d : Display) (hit : Bool)
    (hc : ∀ c ∈ cs, c.1 < p.screenW.val ∧ c.2 < p.screenH.val) (hd : d.wf p = true) :
    (Display.blit cs d hit).1.wf p = true := by
  induction cs generalizing d hit with
  | nil => exact hd
  | cons c cs ih =>
    have := hc c (by simp)
    exact ih _ _ (fun e he => hc e (by simp [he])) (toggle_wf d c this.1 this.2 hd)

/-- A blit of cells of the screen turns over each cell that it names an odd number of times (R191). -/
theorem blit_cell (cs : List Cell) (d : Display) (hit : Bool) (e : Cell)
    (hc : ∀ c ∈ cs, c.1 < p.screenW.val ∧ c.2 < p.screenH.val) (hd : d.wf p = true) :
    (Display.blit cs d hit).1.cell e = (d.cell e ^^ decide (cs.count e % 2 = 1)) := by
  induction cs generalizing d hit with
  | nil => simp [Display.blit]
  | cons c cs ih =>
    have hc0 := hc c (by simp)
    rw [Display.blit, ih _ _ (fun f hf => hc f (by simp [hf])) (toggle_wf d c hc0.1 hc0.2 hd)]
    by_cases h : e = c
    · subst h
      have : (cs.count e + 1) % 2 = 1 ↔ ¬ cs.count e % 2 = 1 := by omega
      by_cases h2 : cs.count e % 2 = 1 <;> simp [cell_toggle_same d e hd, this, h2]
    · rw [cell_toggle_other d c e h, List.count_cons_of_ne (Ne.symm h)]

/-- The collision of a blit (R191): one of its cells was on, or is named twice, so that the second toggle finds on what the
first turned on. -/
theorem blit_hit (cs : List Cell) (d : Display) (hit : Bool)
    (hc : ∀ c ∈ cs, c.1 < p.screenW.val ∧ c.2 < p.screenH.val) (hd : d.wf p = true) :
    (Display.blit cs d hit).2 = true ↔ hit = true ∨ ∃ e ∈ cs, d.cell e = true ∨ 2 ≤ cs.count e := by
  induction cs generalizing d hit with
  | nil => simp [Display.blit]
  | cons c cs ih =>
    have hc0 := hc c (by simp)
    rw [Display.blit, ih _ _ (fun f hf => hc f (by simp [hf])) (toggle_wf d c hc0.1 hc0.2 hd), Bool.or_eq_true]
    constructor
    · rintro ((h | h) | ⟨e, he, h⟩)
      · exact .inl h
      · exact .inr ⟨c, by simp, .inl h⟩
      · refine .inr ⟨e, by simp [he], ?_⟩
        by_cases hec : e = c
        · subst hec
          have := List.count_pos_iff.2 he
          right
          rw [List.count_cons_self]
          omega
        · rwa [cell_toggle_other d c e hec, ← List.count_cons_of_ne (Ne.symm hec)] at h
    · rintro (h | ⟨e, he, h⟩)
      · exact .inl (.inl h)
      · by_cases hec : e = c
        · subst hec
          by_cases hon : d.cell e = true
          · exact .inl (.inr hon)
          · rw [List.count_cons_self] at h
            have hin : e ∈ cs := List.count_pos_iff.1 (by have := h.resolve_left hon; omega)
            exact .inr ⟨e, hin, .inl (by rw [cell_toggle_same d e hd]; simpa using hon)⟩
        · have hin : e ∈ cs := by simpa [hec] using he
          refine .inr ⟨e, hin, ?_⟩
          rwa [cell_toggle_other d c e hec, ← List.count_cons_of_ne (Ne.symm hec)]

/-! ### The cells of a sprite (R191) -/

/-- Which cells a sprite toggles: those of the 1 bits of its rows. -/
theorem mem_spriteCells (s : State) (x0 y0 n : Nat) (c : Cell) :
    c ∈ s.spriteCells x0 y0 n ↔
      ∃ r < n, ∃ j < 8, (s.readMem (s.i.toNat + r)).getLsbD (7 - j) = true ∧ spriteCell s.params x0 y0 r j = c := by
  simp [State.spriteCells, spriteRow]

/-- How often one row names a cell. -/
theorem count_spriteRow (x0 y0 r : Nat) (b : Byte) (c : Cell) :
    (spriteRow p x0 y0 r b).count c =
      (List.range 8).countP fun j => b.getLsbD (7 - j) && decide (spriteCell p x0 y0 r j = c) := by
  rw [spriteRow, List.count, List.countP_filterMap]
  refine List.countP_congr fun j _ => ?_
  cases b.getLsbD (7 - j) <;> simp

/-- Every cell of a sprite is on the screen. -/
theorem spriteCells_onScreen (s : State) (x0 y0 n : Nat) :
    ∀ c ∈ s.spriteCells x0 y0 n, c.1 < s.params.screenW.val ∧ c.2 < s.params.screenH.val := by
  intro c hc
  obtain ⟨r, _, j, _, _, rfl⟩ := (mem_spriteCells _ _ _ _ _).1 hc
  exact ⟨Nat.mod_lt _ s.params.screenW.property, Nat.mod_lt _ s.params.screenH.property⟩

/-- Two numbers less than `m` apart that leave the same remainder mod `m` are the same. -/
theorem offset_inj (b m i j : Nat) (hi : i < m) (hj : j < m) (h : (b + i) % m = (b + j) % m) : i = j := by
  have : i % m = j % m := Nat.ModEq.add_left_cancel' b h
  rwa [Nat.mod_eq_of_lt hi, Nat.mod_eq_of_lt hj] at this

/-- On a screen of at least 8 columns and as many lines as the sprite has rows no two bits of one sprite reach the same
cell (R191). -/
theorem spriteCell_inj (x0 y0 r j r' j' : Nat) (hw : 8 ≤ p.screenW.val) (hr : r < p.screenH.val) (hj : j < 8)
    (hr' : r' < p.screenH.val) (hj' : j' < 8) (h : spriteCell p x0 y0 r j = spriteCell p x0 y0 r' j') :
    r = r' ∧ j = j' := by
  simp only [spriteCell, Prod.mk.injEq] at h
  exact ⟨offset_inj _ _ _ _ hr hr' h.2, offset_inj _ _ _ _ (by omega) (by omega) h.1⟩

/-- On such a screen a sprite names each of its cells once. -/
theorem spriteCells_nodup (s : State) (x0 y0 n : Nat) (hw : 8 ≤ s.params.screenW.val) (hn : n ≤ s.params.screenH.val) :
    (s.spriteCells x0 y0 n).Nodup := by
  rw [State.spriteCells, List.nodup_flatMap]
  constructor
  · intro r hr
    have hr := List.mem_range.1 hr
    rw [List.Nodup, spriteRow, List.pairwise_filterMap]
    refine List.Pairwise.imp_of_mem ?_ List.pairwise_lt_range
    intro j j' hj hj' hlt c hc c' hc' e
    rw [List.mem_range] at hj hj'
    split_ifs at hc hc'
    simp at hc hc'
    have := spriteCell_inj x0 y0 r j r j' hw (by omega) hj (by omega) hj' (by rw [hc, hc', e])
    omega
  · refine List.Pairwise.imp_of_mem ?_ List.pairwise_lt_range
    intro r r' hr hr' hlt c hc hc'
    rw [List.mem_range] at hr hr'
    simp only [spriteRow, List.mem_filterMap, List.mem_range, Option.ite_none_right_eq_some, Option.some.injEq] at hc hc'
    obtain ⟨j, hj, _, h1⟩ := hc
    obtain ⟨j', hj', _, h2⟩ := hc'
    have := spriteCell_inj x0 y0 r j r' j' hw (by omega) hj (by omega) hj' (h1.trans h2.symm)
    omega

end Sys2Proof.Machine
end

