-- ==== Sys2Proof/Laws/Ops.lean ====
section
/-! SUPPORT. One lemma per shared operation that says what it can do: the stack, the flags, the operand forms, the keys,
the fatal entry. Proofs cite these and do not unfold the operation. -/

namespace Sys2Proof.Machine

/-! ### The call stack (R28, R29) -/

/-- A push answers exactly when fewer than sixteen addresses are held. -/
theorem push_eq_none_iff (s : State) (a : Addr) : s.push a = none ↔ s.sp.val = 16 := by
  unfold State.push
  split
  · simp; omega
  · simp; omega

/-- A push counts up, writes the entry the new `SP` names, and touches nothing else. -/
theorem push_eq_some (s t : State) (a : Addr) (h : s.push a = some t) :
    t.sp.val = s.sp.val + 1 ∧ t.stackEntry (s.sp.val + 1) = some a ∧
      (∀ j, j ≠ s.sp.val + 1 → t.stackEntry j = s.stackEntry j) ∧ t = { s with sp := t.sp, stack := t.stack } := by
  unfold State.push at h
  split at h
  case isFalse => simp at h
  case isTrue hlt =>
    simp only [Option.some.injEq] at h
    subst h
    refine ⟨rfl, ?_, ?_, rfl⟩
    · simp [State.stackEntry, hlt]
    · intro j hj
      unfold State.stackEntry
      split
      · simp only [Vector.getElem?_set]
        rw [if_neg (by omega)]
      · rfl

/-- A pop answers exactly when an address is held. -/
theorem pop_eq_none_iff (s : State) : s.pop = none ↔ s.sp.val = 0 := by
  unfold State.pop
  split
  · simp; omega
  · simp; omega

/-- A pop reads the entry `SP` names, counts down, and touches nothing else. -/
theorem pop_eq_some (s t : State) (a : Addr) (h : s.pop = some (a, t)) :
    s.stackEntry s.sp.val = some a ∧ s.sp.val = t.sp.val + 1 ∧ t = { s with sp := t.sp } := by
  unfold State.pop at h
  split at h
  case isFalse => simp at h
  case isTrue hlt =>
    simp only [Option.some.injEq, Prod.mk.injEq] at h
    obtain ⟨rfl, rfl⟩ := h
    refine ⟨?_, ?_, rfl⟩
    · have : s.sp.val - 1 < 16 := by omega
      simp [State.stackEntry, this, show 1 ≤ s.sp.val by omega]
    · show s.sp.val = s.sp.val - 1 + 1
      omega

/-! ### Flags (R23, R173) -/

/-- `VF` is 0 or 1 after a flag write (R23). -/
theorem flagByte_le_one (b : Bool) : (flagByte b).toNat ≤ 1 := by cases b <;> decide

theorem flagByte_toNat (b : Bool) : (flagByte b).toNat = if b then 1 else 0 := by cases b <;> rfl

/-- `SHR` shifts out `x mod 2` (R169). -/
theorem bitOutRight_eq (t : Byte) : bitOutRight t = decide (t.toNat % 2 = 1) := by
  simp [bitOutRight, BitVec.getLsbD, Nat.testBit_zero]

/-- `SHL` shifts out bit 7, which is 1 from 128 on (R170). -/
theorem bitOutLeft_eq (t : Byte) : bitOutLeft t = decide (128 ≤ t.toNat) := by
  revert t; decide +kernel

/-! ### Operand forms -/

theorem offsetTarget_toNat (nnn : Addr) (b : Byte) : (offsetTarget nnn b).toNat = (nnn.toNat + b.toNat) % 4096 := by
  have := b.isLt
  simp [offsetTarget, BitVec.toNat_add, BitVec.toNat_setWidth, Nat.mod_eq_of_lt (show b.toNat < 4096 by omega)]

theorem indexPlus_toNat (a : Addr) (b : Byte) : (indexPlus a b).toNat = (a.toNat + b.toNat) % 4096 :=
  offsetTarget_toNat a b

theorem glyphAddr_toNat (p : Params) (b : Byte) : (glyphAddr p b).toNat = (p.fontBase.val + 5 * b.toNat) % 4096 := by
  simp [glyphAddr]

theorem keyIndex_val (b : Byte) : (keyIndex b).val = b.toNat % 16 := rfl

theorem keyByte_toNat (k : Fin 16) : (keyByte k).toNat = k.val := by
  have := k.isLt
  simp only [keyByte, BitVec.toNat_ofNat]
  omega

/-- The three digits and what they stand for (R183). -/
theorem bcdDigits_length (b : Byte) : (bcdDigits b).length = 3 := rfl

/-- A block has `X + 1` registers (R184). -/
theorem regBlock_length (s : State) (x : Reg) : (s.regBlock x).length = x.val + 1 := by
  have := x.isLt
  simp only [State.regBlock, List.length_take, Vector.length_toList]
  omega

/-- Register `k` of the block is `V[k]` (R184). -/
theorem regBlock_getElem (s : State) (x : Reg) (k : Nat) (h : k < (s.regBlock x).length) :
    (s.regBlock x)[k] = s.reg ⟨k, by rw [regBlock_length] at h; omega⟩ := by
  simp [State.regBlock, State.reg]

/-! ### Keys (R43) -/

/-- `FirstKeyDown()` answers the least key that is down. -/
theorem firstKeyDown_eq_some (s : State) (k : Fin 16) :
    s.firstKeyDown = some k ↔ s.keyDown k = true ∧ ∀ j < k, s.keyDown j = false := by
  simp only [State.firstKeyDown, List.find?_eq_some_iff_getElem, List.length_finRange, List.getElem_finRange,
    Fin.cast_mk, Bool.not_eq_true']
  constructor
  · rintro ⟨hk, i, hi, rfl, h⟩
    exact ⟨hk, fun j hj => h j.val hj⟩
  · rintro ⟨hk, h⟩
    exact ⟨hk, k.val, k.isLt, rfl, fun j hj => h ⟨j, by omega⟩ hj⟩

/-- `FirstKeyDown()` answers none when no key is down. -/
theorem firstKeyDown_eq_none (s : State) : s.firstKeyDown = none ↔ ∀ k, s.keyDown k = false := by
  simp [State.firstKeyDown]

/-! ### Reset and the timers -/

/-- A tick subtracts one and stops at 0 (R137). -/
theorem timerDown_toNat (b : Byte) : (timerDown b).toNat = b.toNat - 1 := by revert b; decide +kernel

end Sys2Proof.Machine
end

