-- ==== Sys2Proof/Laws/Decode.lean ====
section
/-! SUPPORT. Fields, formats and bytes of a word as numbers (R8, R60, R91), and how they fit together: reading a field of
a format gives the field, and a word is the format of its fields. -/

namespace Sys2Proof

/-! ### As numbers -/

/-- The number of a concatenation (R7: `a ∥ b` has `a` in the high bits). -/
theorem append_toNat {m n : Nat} (a : BitVec m) (b : BitVec n) : (a ++ b).toNat = a.toNat * 2 ^ n + b.toNat := by
  rw [BitVec.toNat_append, ← Nat.shiftLeft_add_eq_or_of_lt b.isLt, Nat.shiftLeft_eq]

theorem fieldPage_toNat (w : Word) : (fieldPage w).toNat = w.toNat / 4096 := by
  have := w.isLt
  simp only [fieldPage, BitVec.extractLsb'_toNat, Nat.shiftRight_eq_div_pow]
  omega
theorem fieldX_val (w : Word) : (fieldX w).val = w.toNat / 256 % 16 := by
  show (w.extractLsb' 8 4).toNat = _
  simp only [BitVec.extractLsb'_toNat, Nat.shiftRight_eq_div_pow]
theorem fieldY_val (w : Word) : (fieldY w).val = w.toNat / 16 % 16 := by
  show (w.extractLsb' 4 4).toNat = _
  simp only [BitVec.extractLsb'_toNat, Nat.shiftRight_eq_div_pow]
theorem fieldN_toNat (w : Word) : (fieldN w).toNat = w.toNat % 16 := by
  simp only [fieldN, BitVec.extractLsb'_toNat, Nat.shiftRight_eq_div_pow]
  omega
theorem fieldKK_toNat (w : Word) : (fieldKK w).toNat = w.toNat % 256 := by
  simp only [fieldKK, BitVec.extractLsb'_toNat, Nat.shiftRight_eq_div_pow]
  omega
theorem fieldNNN_toNat (w : Word) : (fieldNNN w).toNat = w.toNat % 4096 := by
  simp only [fieldNNN, BitVec.extractLsb'_toNat, Nat.shiftRight_eq_div_pow]
  omega
theorem highByte_toNat (w : Word) : (highByte w).toNat = w.toNat / 256 := by
  have := w.isLt
  simp only [highByte, BitVec.extractLsb'_toNat, Nat.shiftRight_eq_div_pow]
  omega
theorem lowByte_toNat (w : Word) : (lowByte w).toNat = w.toNat % 256 := by
  simp only [lowByte, BitVec.extractLsb'_toNat, Nat.shiftRight_eq_div_pow]
  omega
theorem regField_toNat (r : Reg) : (regField r).toNat = r.val := rfl
theorem formatA_toNat (p : Nibble) (a : Addr) : (formatA p a).toNat = p.toNat * 4096 + a.toNat :=
  append_toNat p a
theorem formatXK_toNat (p : Nibble) (x : Reg) (k : Byte) :
    (formatXK p x k).toNat = p.toNat * 4096 + x.val * 256 + k.toNat := by
  have h : (formatXK p x k).toNat = _ := append_toNat p (regField x ++ k)
  rw [h, append_toNat, regField_toNat]
  omega
theorem formatXYN_toNat (p : Nibble) (x y : Reg) (n : Nibble) :
    (formatXYN p x y n).toNat = p.toNat * 4096 + x.val * 256 + y.val * 16 + n.toNat := by
  have h : (formatXYN p x y n).toNat = _ := append_toNat p (regField x ++ (regField y ++ n))
  rw [h, append_toNat, append_toNat, regField_toNat, regField_toNat]
  omega
/-- The byte at the lower address is the high byte (R60). -/
theorem wordOfBytes_toNat (hi lo : Byte) : (wordOfBytes hi lo).toNat = hi.toNat * 256 + lo.toNat :=
  append_toNat hi lo

/-! ### Fields of a format -/

@[simp] theorem fieldPage_formatA (p : Nibble) (a : Addr) : fieldPage (formatA p a) = p := by
  apply BitVec.eq_of_toNat_eq
  rw [fieldPage_toNat, formatA_toNat]
  omega
@[simp] theorem fieldNNN_formatA (p : Nibble) (a : Addr) : fieldNNN (formatA p a) = a := by
  apply BitVec.eq_of_toNat_eq
  rw [fieldNNN_toNat, formatA_toNat]
  omega
@[simp] theorem fieldPage_formatXK (p : Nibble) (x : Reg) (k : Byte) : fieldPage (formatXK p x k) = p := by
  apply BitVec.eq_of_toNat_eq
  rw [fieldPage_toNat, formatXK_toNat]
  omega
@[simp] theorem fieldX_formatXK (p : Nibble) (x : Reg) (k : Byte) : fieldX (formatXK p x k) = x := by
  apply Fin.ext
  rw [fieldX_val, formatXK_toNat]
  omega
@[simp] theorem fieldKK_formatXK (p : Nibble) (x : Reg) (k : Byte) : fieldKK (formatXK p x k) = k := by
  apply BitVec.eq_of_toNat_eq
  rw [fieldKK_toNat, formatXK_toNat]
  omega
@[simp] theorem fieldPage_formatXYN (p : Nibble) (x y : Reg) (n : Nibble) : fieldPage (formatXYN p x y n) = p := by
  apply BitVec.eq_of_toNat_eq
  rw [fieldPage_toNat, formatXYN_toNat]
  omega
@[simp] theorem fieldX_formatXYN (p : Nibble) (x y : Reg) (n : Nibble) : fieldX (formatXYN p x y n) = x := by
  apply Fin.ext
  rw [fieldX_val, formatXYN_toNat]
  omega
@[simp] theorem fieldY_formatXYN (p : Nibble) (x y : Reg) (n : Nibble) : fieldY (formatXYN p x y n) = y := by
  apply Fin.ext
  rw [fieldY_val, formatXYN_toNat]
  omega
@[simp] theorem fieldN_formatXYN (p : Nibble) (x y : Reg) (n : Nibble) : fieldN (formatXYN p x y n) = n := by
  apply BitVec.eq_of_toNat_eq
  rw [fieldN_toNat, formatXYN_toNat]
  omega

/-! ### A word is the format of its fields (R8) -/

theorem formatA_fields (w : Word) : formatA (fieldPage w) (fieldNNN w) = w := by
  apply BitVec.eq_of_toNat_eq
  rw [formatA_toNat, fieldPage_toNat, fieldNNN_toNat]
  omega
theorem formatXK_fields (w : Word) : formatXK (fieldPage w) (fieldX w) (fieldKK w) = w := by
  apply BitVec.eq_of_toNat_eq
  rw [formatXK_toNat, fieldPage_toNat, fieldX_val, fieldKK_toNat]
  omega
theorem formatXYN_fields (w : Word) : formatXYN (fieldPage w) (fieldX w) (fieldY w) (fieldN w) = w := by
  apply BitVec.eq_of_toNat_eq
  rw [formatXYN_toNat, fieldPage_toNat, fieldX_val, fieldY_val, fieldN_toNat]
  omega

/-! ### Bytes and words (R60) -/

@[simp] theorem highByte_wordOfBytes (hi lo : Byte) : highByte (wordOfBytes hi lo) = hi := by
  apply BitVec.eq_of_toNat_eq
  rw [highByte_toNat, wordOfBytes_toNat]
  omega
@[simp] theorem lowByte_wordOfBytes (hi lo : Byte) : lowByte (wordOfBytes hi lo) = lo := by
  apply BitVec.eq_of_toNat_eq
  rw [lowByte_toNat, wordOfBytes_toNat]
  omega

/-- A word is its two bytes. -/
@[simp] theorem wordOfBytes_bytes (w : Word) : wordOfBytes (highByte w) (lowByte w) = w := by
  apply BitVec.eq_of_toNat_eq
  rw [wordOfBytes_toNat, highByte_toNat, lowByte_toNat]
  omega

/-! ### Masks (R96) -/

/-- A mask acts on the parts of a concatenation. -/
theorem append_and {m n : Nat} (a c : BitVec m) (b d : BitVec n) : (a ++ b) &&& (c ++ d) = (a &&& c) ++ (b &&& d) := by
  apply BitVec.eq_of_getLsbD_eq
  intro i _
  simp only [BitVec.getLsbD_and, BitVec.getLsbD_append]
  split <;> rfl

theorem formatA_and (p mp : Nibble) (a ma : Addr) : formatA p a &&& formatA mp ma = formatA (p &&& mp) (a &&& ma) :=
  append_and p mp a ma
theorem formatXK_and (p mp : Nibble) (x : Reg) (k mk : Byte) :
    formatXK p x k &&& formatXK mp 0 mk = formatXK (p &&& mp) 0 (k &&& mk) := by
  have h : formatXK p x k &&& formatXK mp 0 mk = _ := append_and p mp (regField x ++ k) (regField 0 ++ mk)
  rw [h, append_and, show regField x &&& regField 0 = regField 0 from BitVec.and_zero]
  rfl
theorem formatXYN_and (p mp : Nibble) (x y : Reg) (n mn : Nibble) :
    formatXYN p x y n &&& formatXYN mp 0 0 mn = formatXYN (p &&& mp) 0 0 (n &&& mn) := by
  have h : formatXYN p x y n &&& formatXYN mp 0 0 mn = _ :=
    append_and p mp (regField x ++ (regField y ++ n)) (regField 0 ++ (regField 0 ++ mn))
  rw [h, append_and, append_and, show regField x &&& regField 0 = regField 0 from BitVec.and_zero,
    show regField y &&& regField 0 = regField 0 from BitVec.and_zero]
  rfl

/-- The mask of format `A` leaves the page (R96). -/
theorem page_formatA (p : Nibble) (a : Addr) : formatA p a &&& 0xF000 = formatA p 0 := by
  have h := formatA_and p 0xF a 0
  rwa [show formatA 0xF 0 = 0xF000 from rfl, show p &&& 0xF = p from BitVec.and_allOnes,
    show a &&& 0 = 0 from BitVec.and_zero] at h
/-- The mask of format `XK` leaves the page (R96). -/
theorem page_formatXK (p : Nibble) (x : Reg) (k : Byte) : formatXK p x k &&& 0xF000 = formatXK p 0 0 := by
  have h := formatXK_and p 0xF x k 0
  rwa [show formatXK 0xF 0 0 = 0xF000 from rfl, show p &&& 0xF = p from BitVec.and_allOnes,
    show k &&& 0 = 0 from BitVec.and_zero] at h
/-- The mask of format `XF` leaves the page and the function byte (R96). -/
theorem function_formatXK (p : Nibble) (x : Reg) (k : Byte) : formatXK p x k &&& 0xF0FF = formatXK p 0 k := by
  have h := formatXK_and p 0xF x k 0xFF
  rwa [show formatXK 0xF 0 0xFF = 0xF0FF from rfl, show p &&& 0xF = p from BitVec.and_allOnes,
    show k &&& 0xFF = k from BitVec.and_allOnes] at h
/-- The mask of format `XYN` leaves the page (R96). -/
theorem page_formatXYN (p : Nibble) (x y : Reg) (n : Nibble) : formatXYN p x y n &&& 0xF000 = formatXYN p 0 0 0 := by
  have h := formatXYN_and p 0xF x y n 0
  rwa [show formatXYN 0xF 0 0 0 = 0xF000 from rfl, show p &&& 0xF = p from BitVec.and_allOnes,
    show n &&& 0 = 0 from BitVec.and_zero] at h
/-- The mask of format `XY` leaves the page and the low nibble (R96). -/
theorem function_formatXYN (p : Nibble) (x y : Reg) (n : Nibble) : formatXYN p x y n &&& 0xF00F = formatXYN p 0 0 n := by
  have h := formatXYN_and p 0xF x y n 0xF
  rwa [show formatXYN 0xF 0 0 0xF = 0xF00F from rfl, show p &&& 0xF = p from BitVec.and_allOnes,
    show n &&& 0xF = n from BitVec.and_allOnes] at h

/-! ### What each page decodes to (R94, R99) -/

/-- Page F: one of the twelve function bytes, or invalid. -/
theorem decodePageF_cases (w : Word) :
    (fieldKK w = 0x07 ∧ decodePageF w = .ldVxDt (fieldX w)) ∨
    (fieldKK w = 0x0A ∧ decodePageF w = .ldVxK (fieldX w)) ∨
    (fieldKK w = 0x15 ∧ decodePageF w = .ldDtVx (fieldX w)) ∨
    (fieldKK w = 0x18 ∧ decodePageF w = .ldStVx (fieldX w)) ∨
    (fieldKK w = 0x1E ∧ decodePageF w = .addI (fieldX w)) ∨
    (fieldKK w = 0x29 ∧ decodePageF w = .ldF (fieldX w)) ∨
    (fieldKK w = 0x30 ∧ decodePageF w = .ldHf (fieldX w)) ∨
    (fieldKK w = 0x33 ∧ decodePageF w = .ldB (fieldX w)) ∨
    (fieldKK w = 0x55 ∧ decodePageF w = .ldMemVx (fieldX w)) ∨
    (fieldKK w = 0x65 ∧ decodePageF w = .ldVxMem (fieldX w)) ∨
    (fieldKK w = 0x75 ∧ decodePageF w = .ldRVx (fieldX w)) ∨
    (fieldKK w = 0x85 ∧ decodePageF w = .ldVxR (fieldX w)) ∨
    (pageFUsed (fieldKK w) = false ∧ decodePageF w = .invalid w) := by
  unfold decodePageF
  simp only []
  by_cases h0 : fieldKK w = 0x07
  · rw [if_pos h0]
    simp [h0]
  rw [if_neg h0]
  by_cases h1 : fieldKK w = 0x0A
  · rw [if_pos h1]
    simp [h1]
  rw [if_neg h1]
  by_cases h2 : fieldKK w = 0x15
  · rw [if_pos h2]
    simp [h2]
  rw [if_neg h2]
  by_cases h3 : fieldKK w = 0x18
  · rw [if_pos h3]
    simp [h3]
  rw [if_neg h3]
  by_cases h4 : fieldKK w = 0x1E
  · rw [if_pos h4]
    simp [h4]
  rw [if_neg h4]
  by_cases h5 : fieldKK w = 0x29
  · rw [if_pos h5]
    simp [h5]
  rw [if_neg h5]
  by_cases h6 : fieldKK w = 0x30
  · rw [if_pos h6]
    simp [h6]
  rw [if_neg h6]
  by_cases h7 : fieldKK w = 0x33
  · rw [if_pos h7]
    simp [h7]
  rw [if_neg h7]
  by_cases h8 : fieldKK w = 0x55
  · rw [if_pos h8]
    simp [h8]
  rw [if_neg h8]
  by_cases h9 : fieldKK w = 0x65
  · rw [if_pos h9]
    simp [h9]
  rw [if_neg h9]
  by_cases h10 : fieldKK w = 0x75
  · rw [if_pos h10]
    simp [h10]
  rw [if_neg h10]
  by_cases h11 : fieldKK w = 0x85
  · rw [if_pos h11]
    simp [h11]
  rw [if_neg h11]
  have h : pageFUsed (fieldKK w) = false := by
    rw [pageFUsed, List.contains_eq_mem, decide_eq_false_iff_not]
    intro h
    simp only [List.mem_cons, List.not_mem_nil, or_false] at h
    tauto
  simp [h]

/-- Page 8: one of the nine functions, or invalid. -/
theorem decodePage8_cases (w : Word) :
    (fieldN w = 0x0 ∧ decodePage8 w = .ldReg (fieldX w) (fieldY w)) ∨
    (fieldN w = 0x1 ∧ decodePage8 w = .orReg (fieldX w) (fieldY w)) ∨
    (fieldN w = 0x2 ∧ decodePage8 w = .andReg (fieldX w) (fieldY w)) ∨
    (fieldN w = 0x3 ∧ decodePage8 w = .xorReg (fieldX w) (fieldY w)) ∨
    (fieldN w = 0x4 ∧ decodePage8 w = .addReg (fieldX w) (fieldY w)) ∨
    (fieldN w = 0x5 ∧ decodePage8 w = .sub (fieldX w) (fieldY w)) ∨
    (fieldN w = 0x6 ∧ decodePage8 w = .shr (fieldX w) (fieldY w)) ∨
    (fieldN w = 0x7 ∧ decodePage8 w = .subn (fieldX w) (fieldY w)) ∨
    (fieldN w = 0xE ∧ decodePage8 w = .shl (fieldX w) (fieldY w)) ∨
    ((8 ≤ (fieldN w).toNat ∧ (fieldN w).toNat ≤ 13 ∨ (fieldN w).toNat = 15) ∧ decodePage8 w = .invalid w) := by
  unfold decodePage8
  simp only []
  by_cases h0 : fieldN w = 0x0
  · rw [if_pos h0]
    simp [h0]
  rw [if_neg h0]
  by_cases h1 : fieldN w = 0x1
  · rw [if_pos h1]
    simp [h1]
  rw [if_neg h1]
  by_cases h2 : fieldN w = 0x2
  · rw [if_pos h2]
    simp [h2]
  rw [if_neg h2]
  by_cases h3 : fieldN w = 0x3
  · rw [if_pos h3]
    simp [h3]
  rw [if_neg h3]
  by_cases h4 : fieldN w = 0x4
  · rw [if_pos h4]
    simp [h4]
  rw [if_neg h4]
  by_cases h5 : fieldN w = 0x5
  · rw [if_pos h5]
    simp [h5]
  rw [if_neg h5]
  by_cases h6 : fieldN w = 0x6
  · rw [if_pos h6]
    simp [h6]
  rw [if_neg h6]
  by_cases h7 : fieldN w = 0x7
  · rw [if_pos h7]
    simp [h7]
  rw [if_neg h7]
  by_cases h8 : fieldN w = 0xE
  · rw [if_pos h8]
    simp [h8]
  rw [if_neg h8]
  have h : 8 ≤ (fieldN w).toNat ∧ (fieldN w).toNat ≤ 13 ∨ (fieldN w).toNat = 15 := by
    have ne : ∀ k : Nibble, ¬fieldN w = k → (fieldN w).toNat ≠ k.toNat := fun k hk e => hk (BitVec.eq_of_toNat_eq e)
    have e0 : (fieldN w).toNat ≠ 0 := ne _ h0
    have e1 : (fieldN w).toNat ≠ 1 := ne _ h1
    have e2 : (fieldN w).toNat ≠ 2 := ne _ h2
    have e3 : (fieldN w).toNat ≠ 3 := ne _ h3
    have e4 : (fieldN w).toNat ≠ 4 := ne _ h4
    have e5 : (fieldN w).toNat ≠ 5 := ne _ h5
    have e6 : (fieldN w).toNat ≠ 6 := ne _ h6
    have e7 : (fieldN w).toNat ≠ 7 := ne _ h7
    have e8 : (fieldN w).toNat ≠ 14 := ne _ h8
    have := (fieldN w).isLt
    omega
  simp [h]

end Sys2Proof
end

