-- ==== Sys2Proof/Laws/PerInstr.lean ====
section
/-! SUPPORT. The family OpcodeRow: the word of an instruction matches the mask and match of its row of the opcode map
(R96), for every operand. -/

namespace Sys2Proof.Laws.OpcodeRow

/-- `encode i AND mask = match`, with the mask and match of the row of `i` (R96). -/
def Statement (i : Instr) : Prop := encode i &&& i.row.1 = i.row.2

theorem sys (nnn : Addr) : Statement (.sys nnn) := page_formatA 0x0 nnn
theorem cls : Statement .cls := rfl
theorem ret : Statement .ret := rfl
theorem jp (nnn : Addr) : Statement (.jp nnn) := page_formatA 0x1 nnn
theorem call (nnn : Addr) : Statement (.call nnn) := page_formatA 0x2 nnn
theorem seImm (x : Reg) (kk : Byte) : Statement (.seImm x kk) := page_formatXK 0x3 x kk
theorem sneImm (x : Reg) (kk : Byte) : Statement (.sneImm x kk) := page_formatXK 0x4 x kk
theorem seReg (x y : Reg) : Statement (.seReg x y) := function_formatXYN 0x5 x y 0x0
theorem ldImm (x : Reg) (kk : Byte) : Statement (.ldImm x kk) := page_formatXK 0x6 x kk
theorem addImm (x : Reg) (kk : Byte) : Statement (.addImm x kk) := page_formatXK 0x7 x kk
theorem ldReg (x y : Reg) : Statement (.ldReg x y) := function_formatXYN 0x8 x y 0x0
theorem orReg (x y : Reg) : Statement (.orReg x y) := function_formatXYN 0x8 x y 0x1
theorem andReg (x y : Reg) : Statement (.andReg x y) := function_formatXYN 0x8 x y 0x2
theorem xorReg (x y : Reg) : Statement (.xorReg x y) := function_formatXYN 0x8 x y 0x3
theorem addReg (x y : Reg) : Statement (.addReg x y) := function_formatXYN 0x8 x y 0x4
theorem sub (x y : Reg) : Statement (.sub x y) := function_formatXYN 0x8 x y 0x5
theorem shr (x y : Reg) : Statement (.shr x y) := function_formatXYN 0x8 x y 0x6
theorem subn (x y : Reg) : Statement (.subn x y) := function_formatXYN 0x8 x y 0x7
theorem shl (x y : Reg) : Statement (.shl x y) := function_formatXYN 0x8 x y 0xE
theorem sneReg (x y : Reg) : Statement (.sneReg x y) := function_formatXYN 0x9 x y 0x0
theorem ldI (nnn : Addr) : Statement (.ldI nnn) := page_formatA 0xA nnn
theorem jpV0 (nnn : Addr) : Statement (.jpV0 nnn) := page_formatA 0xB nnn
theorem rnd (x : Reg) (kk : Byte) : Statement (.rnd x kk) := page_formatXK 0xC x kk
theorem drw (x y : Reg) (n : Nibble) : Statement (.drw x y n) := page_formatXYN 0xD x y n
theorem skp (x : Reg) : Statement (.skp x) := function_formatXK 0xE x 0x9E
theorem sknp (x : Reg) : Statement (.sknp x) := function_formatXK 0xE x 0xA1
theorem ldVxDt (x : Reg) : Statement (.ldVxDt x) := function_formatXK 0xF x 0x07
theorem ldVxK (x : Reg) : Statement (.ldVxK x) := function_formatXK 0xF x 0x0A
theorem ldDtVx (x : Reg) : Statement (.ldDtVx x) := function_formatXK 0xF x 0x15
theorem ldStVx (x : Reg) : Statement (.ldStVx x) := function_formatXK 0xF x 0x18
theorem addI (x : Reg) : Statement (.addI x) := function_formatXK 0xF x 0x1E
theorem ldF (x : Reg) : Statement (.ldF x) := function_formatXK 0xF x 0x29
theorem ldB (x : Reg) : Statement (.ldB x) := function_formatXK 0xF x 0x33
theorem ldMemVx (x : Reg) : Statement (.ldMemVx x) := function_formatXK 0xF x 0x55
theorem ldVxMem (x : Reg) : Statement (.ldVxMem x) := function_formatXK 0xF x 0x65
theorem scd (n : Nibble) : Statement (.scd n) :=
  (by decide : ∀ m : Nibble, encode (.scd m) &&& 0xFFF0 = 0x00C0) n
theorem scr : Statement .scr := rfl
theorem scl : Statement .scl := rfl
theorem low : Statement .low := rfl
theorem high : Statement .high := rfl
theorem ldHf (x : Reg) : Statement (.ldHf x) := function_formatXK 0xF x 0x30
theorem ldRVx (x : Reg) : Statement (.ldRVx x) := function_formatXK 0xF x 0x75
theorem ldVxR (x : Reg) : Statement (.ldVxR x) := function_formatXK 0xF x 0x85
theorem invalid (w : Word) : Statement (.invalid w) := BitVec.and_zero

end Sys2Proof.Laws.OpcodeRow
end

