-- ==== Sys2Proof/Tests/Slice0.lean ====
section
/-! SUPPORT. The model's own tests: the checks of WellFormed, decoding of words written out from the spec, one step per
vector of 95_test_vectors.md, and for each statement with hypotheses a state and operands that meet them. Expected results
are those of the tables named at each group. -/

namespace Sys2Proof.Tests

open Sys2Proof.Machine Sys2Proof.Spec

/-! ### WellFormed -/

/-- `SYS` may not carry the word of a more specific kind (R98, R100): each term is refused. -/
theorem test_ill_formed_sys : [0x0E0, 0x0EE, 0x0FB, 0x0FC, 0x0FE, 0x0FF, 0x0C0, 0x0C5, 0x0CF].all
    (fun a => !(Instr.sys a).wellFormed) = true := by decide

/-- The words beside them are `SYS` (R100; 2.1). -/
theorem test_well_formed_sys : [0x000, 0x0BF, 0x0D0, 0x0E1, 0x0ED, 0x0FD, 0x1E0, 0xAEE, 0xFFF].all
    (fun a => (Instr.sys a).wellFormed) = true := by decide

/-- `INVALID` may not carry a word that has a kind (R99): one word of each page is refused. -/
theorem test_ill_formed_invalid : [0x0000, 0x1ABC, 0x2300, 0x332A, 0x432A, 0x5120, 0x6112, 0x7220, 0x8124, 0x812E,
    0x9120, 0xA2F0, 0xB300, 0xC30F, 0xD015, 0xE59E, 0xE5A1, 0xF307, 0xF385].all
    (fun w => !(Instr.invalid w).wellFormed) = true := by decide

/-- One invalid word of each row of the table of R99. -/
theorem test_well_formed_invalid : [0x5001, 0x8008, 0x800F, 0x9001, 0xE000, 0xF000].all
    (fun w => (Instr.invalid w).wellFormed) = true := by decide

/-! ### Decoding: a word of every constructor, written out from R96, its operand digits all different -/

theorem test_decode_page_0 : decode 0x0123 = .sys 0x123 ∧ decode 0x00E0 = .cls ∧ decode 0x00EE = .ret ∧
    decode 0x00C7 = .scd 7 ∧ decode 0x00FB = .scr ∧ decode 0x00FC = .scl ∧ decode 0x00FE = .low ∧
    decode 0x00FF = .high := by decide

theorem test_decode_addresses : decode 0x1ABC = .jp 0xABC ∧ decode 0x2345 = .call 0x345 ∧ decode 0xA2F0 = .ldI 0x2F0 ∧
    decode 0xB307 = .jpV0 0x307 := by decide

theorem test_decode_immediates : decode 0x332A = .seImm 3 0x2A ∧ decode 0x4F1B = .sneImm 15 0x1B ∧
    decode 0x6112 = .ldImm 1 0x12 ∧ decode 0x7C20 = .addImm 12 0x20 ∧ decode 0xC30F = .rnd 3 0x0F := by decide

theorem test_decode_registers : decode 0x5120 = .seReg 1 2 ∧ decode 0x9F30 = .sneReg 15 3 ∧ decode 0x8AB0 = .ldReg 10 11 ∧
    decode 0x8AB1 = .orReg 10 11 ∧ decode 0x8AB2 = .andReg 10 11 ∧ decode 0x8AB3 = .xorReg 10 11 ∧
    decode 0x8AB4 = .addReg 10 11 ∧ decode 0x8AB5 = .sub 10 11 ∧ decode 0x8AB6 = .shr 10 11 ∧
    decode 0x8AB7 = .subn 10 11 ∧ decode 0x8ABE = .shl 10 11 ∧ decode 0xD12F = .drw 1 2 15 := by decide

theorem test_decode_pages_E_F : decode 0xE59E = .skp 5 ∧ decode 0xE6A1 = .sknp 6 ∧ decode 0xF307 = .ldVxDt 3 ∧
    decode 0xF20A = .ldVxK 2 ∧ decode 0xF415 = .ldDtVx 4 ∧ decode 0xF518 = .ldStVx 5 ∧ decode 0xF21E = .addI 2 ∧
    decode 0xF129 = .ldF 1 ∧ decode 0xF433 = .ldB 4 ∧ decode 0xF155 = .ldMemVx 1 ∧ decode 0xF265 = .ldVxMem 2 ∧
    decode 0xF130 = .ldHf 1 ∧ decode 0xF375 = .ldRVx 3 ∧ decode 0xF785 = .ldVxR 7 := by decide

theorem test_decode_invalid : decode 0x5121 = .invalid 0x5121 ∧ decode 0x8AB8 = .invalid 0x8AB8 ∧
    decode 0xE09D = .invalid 0xE09D ∧ decode 0xF0FF = .invalid 0xF0FF := by decide

/-- A list shorter than an instruction is rejected by name (R90). -/
theorem test_decode_truncated : decodeBytes [0x61] = .error .truncated ∧ decodeBytes [] = .error .truncated ∧
    decodeBytes [0x61, 0x12, 0x7F] = .ok (.ldImm 1 0x12, [0x7F]) := by decide

/-- The kinds of the words have these ordinals. -/
def kindIdsAre (rows : List (Word × BitVec 6)) : Bool := rows.all fun r => (decode r.1).kindId == r.2

/-! The words of the table of 2.1, with the pairs around each boundary of the pages 0, 5, 8, 9, E, F. -/

theorem test_kind_ids_1 : kindIdsAre [
    (0x0000, 0), (0x0001, 0), (0x00BF, 0), (0x00C0, 35), (0x00C7, 35), (0x00CF, 35), (0x00D0, 0), (0x00DF, 0),
    (0x00E0, 1), (0x00E1, 0), (0x00ED, 0), (0x00EE, 2), (0x00EF, 0), (0x00FA, 0), (0x00FB, 36), (0x00FC, 37),
    (0x00FD, 0), (0x00FE, 38), (0x00FF, 39), (0x0100, 0), (0x01E0, 0), (0x0AEE, 0), (0x0FFF, 0), (0x1000, 3)] = true := by decide
theorem test_kind_ids_2 : kindIdsAre [
    (0x10C0, 3), (0x1FFF, 3), (0x2000, 4), (0x2FFF, 4), (0x3000, 5), (0x3FFF, 5), (0x4000, 6), (0x4FFF, 6),
    (0x5000, 7), (0x5001, 43), (0x5FF0, 7), (0x5FFF, 43), (0x6000, 8), (0x6FFF, 8), (0x7000, 9), (0x7FFF, 9),
    (0x8000, 10), (0x8AB1, 11), (0x8AB2, 12), (0x8AB3, 13), (0x8AB4, 14), (0x8AB5, 15), (0x8AB6, 16), (0x8AB7,
    17)] = true := by decide
theorem test_kind_ids_3 : kindIdsAre [
    (0x8AB8, 43), (0x8AB9, 43), (0x8ABA, 43), (0x8ABB, 43), (0x8ABC, 43), (0x8ABD, 43), (0x8ABE, 18), (0x8ABF,
    43), (0x8FF0, 10), (0x9000, 19), (0x9001, 43), (0x9FF0, 19), (0x9FFF, 43), (0xA000, 20), (0xAFFF, 20),
    (0xB000, 21), (0xBFFF, 21), (0xC000, 22), (0xCFFF, 22), (0xD000, 23), (0xD120, 23), (0xDFFF, 23), (0xE000,
    43), (0xE09D, 43)] = true := by decide
theorem test_kind_ids_4 : kindIdsAre [
    (0xE09E, 24), (0xE09F, 43), (0xE0A0, 43), (0xE0A1, 25), (0xE0A2, 43), (0xE19E, 24), (0xE9E0, 43), (0xEF9E,
    24), (0xEFA1, 25), (0xEFFF, 43), (0xF000, 43), (0xF001, 43), (0xF007, 26), (0xF008, 43), (0xF00A, 27),
    (0xF00B, 43), (0xF015, 28), (0xF016, 43), (0xF018, 29), (0xF01E, 30), (0xF01F, 43), (0xF028, 43), (0xF029,
    31), (0xF02A, 43)] = true := by decide
theorem test_kind_ids_5 : kindIdsAre [
    (0xF030, 40), (0xF031, 43), (0xF033, 32), (0xF034, 43), (0xF055, 33), (0xF056, 43), (0xF064, 43), (0xF065,
    34), (0xF066, 43), (0xF074, 43), (0xF075, 41), (0xF085, 42), (0xF086, 43), (0xF095, 43), (0xF0FF, 43),
    (0xF650, 43), (0xF700, 43), (0xFF07, 26), (0xFF85, 42), (0xFFFF, 43)] = true := by decide

/-! ### One step (2.2 to 2.7) -/

/-- The outcome is this next state. -/
def givesNext {S F R : Type} [DecidableEq S] (o : Host.Outcome S F R) (t : S) : Bool :=
  match o with
  | .next u => decide (u = t)
  | .fault _ => false
  | .refused _ => false

theorem givesNext_eq {S F R : Type} [DecidableEq S] {o : Host.Outcome S F R} {t : S} (h : givesNext o t = true) :
    o = .next t := by
  cases o with
  | next u => rw [of_decide_eq_true h]
  | fault r => cases h
  | refused r => cases h

/-- The state after one step with the word at `PC`, from the reset state changed by `f`. -/
def after (w : Nat) (f : State → State) : State :=
  match Machine.step ((f State.reset).withFetchWord 16 w) with
  | .next t => t
  | .fault _ => State.reset
  | .refused _ => State.reset

/-- The keys with these ones down. -/
def keysDown (ks : List (Fin 16)) : Vector Bool 16 := Vector.ofFn fun k => ks.contains k

/-- `SP` and one entry `STACK[SP]`, the entry at index `SP - 1`. -/
def withStack (n : Fin 17) (a : Addr) (s : State) : State :=
  { s with sp := n, stack := s.stack.setIfInBounds (n.val - 1) a }

/-- These cells on. -/
def withCells (cs : List Cell) (s : State) : State := s.setDisplay cs

theorem test_fetch_wraps : (after 0x12F0 fun s => s.setPc 0xFFF).pc = 0x2F0 := by decide
theorem test_fetch_order : (after 0x1261 id).pc = 0x261 := by decide

theorem test_sys : after 0x0FFF (·.setPc 0xFFE) = (State.reset.setPc 0x000).writeBytes 0xFFE [0x0F, 0xFF] := by decide
theorem test_sys_00FD : (after 0x00FD id).pc = 0x202 ∧ (after 0x00FD id).halt = false := by decide
theorem test_ret : (after 0x00EE (withStack 1 0x123)).pc = 0x123 ∧ (after 0x00EE (withStack 1 0x123)).sp = 0 := by decide
theorem test_ret_full : (after 0x00EE (withStack 16 0xFFF)).pc = 0xFFF ∧ (after 0x00EE (withStack 16 0xFFF)).sp = 15 := by
  decide
theorem test_jp : (after 0x1ABC id).pc = 0xABC := by decide
theorem test_jp_self : after 0x1200 id = State.reset.withFetchWord 16 0x1200 := by decide
theorem test_call : (after 0x2300 (withStack 15 0)).sp = 16 ∧ (after 0x2300 (withStack 15 0)).stackEntry 16 = some 0x202 := by
  decide
theorem test_call_wraps : (after 0x2ABC fun s => (withStack 3 0 s).setPc 0xFFF).stackEntry 4 = some 0x001 ∧
    (after 0x2ABC fun s => (withStack 3 0 s).setPc 0xFFF).pc = 0xABC := by decide
theorem test_seImm_taken : (after 0x3000 (·.setPc 0xFFC)).pc = 0x000 := by decide
theorem test_seImm_not_taken : (after 0x332A (·.setReg 3 0x2B)).pc = 0x202 := by decide
theorem test_sneImm_taken : (after 0x432A id).pc = 0x204 := by decide
theorem test_sneImm_not_taken : (after 0x432A (·.setReg 3 0x2A)).pc = 0x202 := by decide
theorem test_seReg_taken : (after 0x5120 fun s => (s.setReg 1 7).setReg 2 7).pc = 0x204 := by decide
theorem test_seReg_not_taken : (after 0x5120 fun s => (s.setReg 1 7).setReg 2 8).pc = 0x202 := by decide
theorem test_sneReg_taken : (after 0x9120 fun s => (s.setReg 1 7).setReg 2 8).pc = 0x204 := by decide
theorem test_sneReg_same : (after 0x9330 (·.setReg 3 0x99)).pc = 0x202 := by decide
theorem test_jpV0_wraps : (after 0xBFFF (·.setReg 0 0xFF)).pc = 0x0FE := by decide
theorem test_jpV0_register_0 : (after 0xB300 (·.setReg 3 0x55)).pc = 0x300 := by decide
theorem test_ldImm : (after 0x6112 id).reg 1 = 0x12 ∧ (after 0x6112 id).pc = 0x202 := by decide
theorem test_ldImm_flag : (after 0x6F55 id).reg 15 = 0x55 := by decide
theorem test_addImm_wraps : (after 0x7101 (·.setReg 1 0xFF)).reg 1 = 0x00 ∧
    (after 0x7101 (·.setReg 1 0xFF)).reg 15 = 0 := by decide
theorem test_addImm_flag : (after 0x7F01 (·.setReg 15 0xFF)).reg 15 = 0x00 := by decide
theorem test_ldReg : (after 0x8120 (·.setReg 2 0x5A)).reg 1 = 0x5A := by decide
theorem test_ldReg_flag : (after 0x8F20 (·.setReg 2 0x9C)).reg 15 = 0x9C := by decide
theorem test_or : (after 0x8121 fun s => ((s.setReg 1 0xF0).setReg 2 0x0F).setReg 15 1).reg 1 = 0xFF ∧
    (after 0x8121 fun s => ((s.setReg 1 0xF0).setReg 2 0x0F).setReg 15 1).reg 15 = 1 := by decide
theorem test_and : (after 0x8122 fun s => ((s.setReg 1 0xF0).setReg 2 0x3C).setReg 15 1).reg 1 = 0x30 ∧
    (after 0x8122 fun s => ((s.setReg 1 0xF0).setReg 2 0x3C).setReg 15 1).reg 15 = 1 := by decide
theorem test_xor : (after 0x8123 fun s => (s.setReg 1 0xF0).setReg 2 0x3C).reg 1 = 0xCC := by decide
theorem test_xor_same : (after 0x8113 (·.setReg 1 0xAB)).reg 1 = 0x00 := by decide
theorem test_addReg_no_carry : (after 0x8124 fun s => ((s.setReg 1 0x64).setReg 2 0x9B).setReg 15 1).reg 1 = 0xFF ∧
    (after 0x8124 fun s => ((s.setReg 1 0x64).setReg 2 0x9B).setReg 15 1).reg 15 = 0 := by decide
theorem test_addReg_into_flag : (after 0x8F14 fun s => (s.setReg 15 0xC8).setReg 1 0x64).reg 15 = 1 ∧
    (after 0x8124 fun s => (s.setReg 1 0xFE).setReg 2 0x02).reg 1 = 0 := by decide
theorem test_sub_borrow : (after 0x8125 fun s => (s.setReg 1 5).setReg 2 7).reg 1 = 0xFE ∧
    (after 0x8125 fun s => ((s.setReg 1 5).setReg 2 7).setReg 15 1).reg 15 = 0 := by decide
theorem test_sub_equal : (after 0x8125 fun s => (s.setReg 1 7).setReg 2 7).reg 15 = 1 ∧
    (after 0x8F15 fun s => (s.setReg 15 3).setReg 1 9).reg 15 = 0 := by decide
theorem test_subn : (after 0x8127 fun s => (s.setReg 1 5).setReg 2 7).reg 1 = 2 ∧
    (after 0x8127 fun s => (s.setReg 1 5).setReg 2 7).reg 15 = 1 := by decide
theorem test_subn_borrow : (after 0x8127 (·.setReg 1 1)).reg 1 = 0xFF ∧ (after 0x8F17 fun s =>
    (s.setReg 15 9).setReg 1 3).reg 15 = 0 := by decide
theorem test_shr : (after 0x8126 fun s => ((s.setReg 1 4).setReg 2 0xFF).setReg 15 1).reg 1 = 2 ∧
    (after 0x8126 fun s => ((s.setReg 1 4).setReg 2 0xFF).setReg 15 1).reg 15 = 0 := by decide
theorem test_shr_flag : (after 0x8F06 (·.setReg 15 3)).reg 15 = 1 ∧ (after 0x8106 (·.setReg 1 0xFF)).reg 1 = 0x7F := by
  decide
theorem test_shl : (after 0x810E (·.setReg 1 0x81)).reg 1 = 2 ∧ (after 0x810E (·.setReg 1 0x81)).reg 15 = 1 := by decide
theorem test_shl_flag : (after 0x8F0E (·.setReg 15 0xC1)).reg 15 = 1 ∧ (after 0x8F0E (·.setReg 15 1)).reg 15 = 0 := by
  decide
/-- With `KK = 0` the result is 0 whatever is drawn (R171). -/
theorem test_rnd_mask : (after 0xC300 (·.setReg 3 0x55)).pc = 0x202 ∧ (after 0xC300 (·.setReg 3 0x55)).draws = 1 := by
  decide
theorem test_ldI : (after 0xA2F0 id).i = 0x2F0 := by decide
theorem test_addI_wraps : (after 0xF21E fun s => (s.setI 0xFFF).setReg 2 0xFF).i = 0x0FE ∧
    (after 0xF21E fun s => (s.setI 0xFFF).setReg 2 0xFF).reg 15 = 0 := by decide
theorem test_addI : (after 0xF21E fun s => (s.setI 0x2F0).setReg 2 0x20).i = 0x310 := by decide
theorem test_ldF : (after 0xF129 (·.setReg 1 3)).i = 0x00F := by decide
theorem test_ldF_past_the_font : (after 0xF129 (·.setReg 1 0xFF)).i = 0x4FB ∧ (after 0xF129 (·.setReg 1 0x13)).i = 0x05F := by
  decide
/-- 234 at `I = 0xFFF` (2.5): the second and third digit go to 0x000 and 0x001. -/
theorem test_ldB_wraps : [0xFFF, 0x000, 0x001, 0x002].map (after 0xF433 fun s => (s.setReg 4 0xEA).setI 0xFFF).readMem =
    [2, 3, 4, 0x90] := by decide
/-- The instruction overwrites its own word and completes (2.5, R75). -/
theorem test_ldB_own_word : [0x200, 0x201, 0x202].map (after 0xF033 fun s => (s.setReg 0 0x7B).setI 0x200).readMem =
    [1, 2, 3] ∧ (after 0xF033 fun s => (s.setReg 0 0x7B).setI 0x200).pc = 0x202 := by decide
theorem test_ldMemVx : [0x400, 0x401, 0x402].map (after 0xF155 fun s =>
    (((s.setReg 0 0xAA).setReg 1 0xBB).setReg 2 0xCC).setI 0x400).readMem = [0xAA, 0xBB, 0x00] := by decide
theorem test_ldMemVx_wraps : [0xFFF, 0x000, 0x001].map (after 0xF255 fun s =>
    (((s.setReg 0 1).setReg 1 2).setReg 2 3).setI 0xFFF).readMem = [1, 2, 3] ∧
    (after 0xF255 fun s => (s.setReg 0 1).setI 0xFFF).i = 0xFFF := by decide
theorem test_ldVxMem : [0, 1, 2].map (after 0xF165 fun s =>
    ((s.writeBytes 0x400 [0x11, 0x22, 0x33]).setReg 2 0x77).setI 0x400).reg = [0x11, 0x22, 0x77] := by decide
theorem test_ldVxMem_wraps : [0, 1].map (after 0xF165 fun s => (s.writeMem 0xFFF 0xA1).setI 0xFFF).reg = [0xA1, 0xF0] := by
  decide
theorem test_cls : (after 0x00E0 (withCells [(0, 0), (5, 7), (63, 31)])).disp = [] := by decide
/-- The glyph of 0 drawn with cell (0, 0) on before (2.6): that cell goes off, the other thirteen go on, `VF = 1`. -/
theorem test_drw_collision : (after 0xD015 (withCells [(0, 0)])).disp = [(1, 0), (2, 0), (3, 0), (0, 1), (3, 1), (0, 2),
    (3, 2), (0, 3), (3, 3), (0, 4), (1, 4), (2, 4), (3, 4)] ∧ (after 0xD015 (withCells [(0, 0)])).reg 15 = 1 := by decide
/-- At (62, 31) a sprite wraps right and bottom (2.6). -/
theorem test_drw_wraps : (after 0xD012 fun s => (s.setReg 0 0x3E).setReg 1 0x1F).disp = [(1, 0), (62, 0), (0, 31), (1, 31),
    (62, 31), (63, 31)] ∧ (after 0xD012 fun s => (s.setReg 0 0x3E).setReg 1 0x1F).reg 15 = 0 := by decide
theorem test_skp_down : (after 0xE59E fun s => (s.setReg 5 0x1A).setKeys (keysDown [10])).pc = 0x204 := by decide
theorem test_skp_up : (after 0xE59E fun s => (s.setReg 5 0x0A).setKeys (keysDown [11])).pc = 0x202 := by decide
theorem test_sknp_up : (after 0xE5A1 (·.setReg 5 0x0A)).pc = 0x204 := by decide
theorem test_sknp_down : (after 0xE5A1 fun s => (s.setReg 5 0xFA).setKeys (keysDown [10])).pc = 0x202 := by decide
theorem test_ldVxK_least : (after 0xF20A (·.setKeys (keysDown [9, 3]))).reg 2 = 3 ∧
    (after 0xF20A (·.setKeys (keysDown [9, 3]))).pc = 0x202 := by decide
theorem test_ldVxK_hold : after 0xF20A id = State.reset.withFetchWord 16 0xF20A := by decide
theorem test_ldVxDt : (after 0xF307 (·.setDt 0x3C)).reg 3 = 0x3C := by decide
theorem test_ldDtVx : (after 0xF315 (·.setReg 3 0x3C)).dt = 0x3C := by decide
theorem test_ldStVx : (after 0xF318 (·.setReg 3 5)).st = 5 ∧ (after 0xF318 (·.setReg 3 5)).dt = 0 := by decide

/-! Other parameters (R6): the font at 0x1B0 with another first byte, a screen of 4 by 2. Expected results by hand from R45,
R182 and R191. -/

/-- The largest FONT_BASE, a first font byte of 0x98, a screen of 4 by 2. -/
def smallParams : Params where
  fontBase := 0x1B0
  fontData := Params.standard.fontData.set 0 0x98
  screenW := ⟨4, by decide⟩
  screenH := ⟨2, by decide⟩

/-- A machine of those parameters, `I` at its font. -/
def small : State := (State.resetWith smallParams).setI 0x1B0

theorem test_font_base : [0x000, 0x1AF, 0x1B0, 0x1B1, 0x1FF, 0x200].map (State.resetWith smallParams).readMem =
    [0, 0, 0x98, 0x90, 0x80, 0] := by decide
theorem test_ldF_font_base : (after 0xF129 fun s => { s.setReg 1 3 with params := smallParams }).i = 0x1BF := by decide
/-- Bits 7, 4, 3 of 0x98 reach the columns 0, 3, 4: columns 0 and 4 are one cell on a screen 4 wide, which goes on and off
again. -/
theorem test_drw_small_screen : (after 0xD011 fun _ => small).disp = [(3, 0)] ∧ (after 0xD011 fun _ => small).reg 15 = 1 := by
  decide

/-! Fatal conditions (2.7): the latch filled, and nothing else changed. -/

/-- The state before of every row of 2.7, the word in place. -/
def before (w : Nat) : State := ((withStack 1 0x204 ((State.reset.setPc 0x2A0).setReg 1 0x11)).setI 0x222).withFetchWord 16 w

/-- The latch these words leave, and the whole state after. -/
def haltsWith (code : BitVec 3) (words : List (BitVec 16)) : Bool := words.all fun w =>
  givesNext (Machine.step (before w.toNat))
    { before w.toNat with halt := true, cause := code, faddr := 0x2A0, fword := w }

theorem test_extended_halt : haltsWith 2 [0x00C0, 0x00C5, 0x00CF, 0x00FB, 0x00FC, 0x00FE, 0x00FF] = true := by decide
theorem test_extended_page_F_halt : haltsWith 2 [0xF030, 0xF375, 0xF785] = true := by decide
theorem test_invalid_halt : haltsWith 1 [0x5001, 0x8008, 0x800F, 0x9001, 0xE000, 0xE19D, 0xF000, 0xF1FF, 0xFFFF] = true := by
  decide
theorem test_call_overflow : after 0x2300 (withStack 16 0) = { (withStack 16 0 State.reset).withFetchWord 16 0x2300 with
    halt := true, cause := 3, faddr := 0x200, fword := 0x2300 } := by decide
theorem test_ret_underflow : after 0x00EE id = { State.reset.withFetchWord 16 0x00EE with
    halt := true, cause := 4, faddr := 0x200, fword := 0x00EE } := by decide

/-! Host actions (2.8). -/

theorem test_tick : State.tick ((State.reset.setDt 0xFF).setSt 1) = (State.reset.setDt 0xFE).setSt 0 := by decide
theorem test_tick_floor : State.reset.tick = State.reset := by decide
theorem test_load : System.act (.load [0x61, 0x12]) ⟨State.reset, .fresh⟩ =
    .next ⟨(State.reset.writeMem 0x200 0x61).writeMem 0x201 0x12, .loaded⟩ := givesNext_eq (by decide)
theorem test_load_too_long : System.act (.load (List.replicate 3585 0)) ⟨State.reset, .fresh⟩ = .refused .imageTooLong := by
  rw [System.act, if_neg (by rw [List.length_replicate]; decide)]
theorem test_load_twice : System.act (.load []) ⟨State.reset, .loaded⟩ = .refused .loadOutOfTurn := rfl
theorem test_host_reset : State.hostReset { (withStack 16 7 ((State.reset.setReg 2 0x7F).setI 0xABC)).setDt 9 with
    halt := true, cause := 3, disp := [(5, 7)], mem := [(0, 9), (0x300, 0x55)] } = State.reset := by decide

/-! ### Witnesses: for each statement with hypotheses, a state and operands that meet them -/

/-- A state with a block at the top of memory, used by several witnesses. -/
def busy : State := ((((State.reset.setReg 0 0x6A).setReg 1 0x77).setI 0x202).withFetchWord 16 0xF155).setDisplay
  [(0, 0), (63, 31)]

theorem witness_DecodeGivesBackEncode : (Instr.sys 0x0FD).wellFormed = true ∧ (Instr.invalid 0xFFFF).wellFormed = true ∧
    (Instr.drw 15 15 15).wellFormed = true := by decide
theorem witness_InvalidWordsAreThoseOfTheTable : decode 0x5001 = .invalid 0x5001 ∧ decode 0x800F = .invalid 0x800F ∧
    decode 0x9FFF = .invalid 0x9FFF ∧ decode 0xE09F = .invalid 0xE09F ∧ decode 0xFFFF = .invalid 0xFFFF := by decide
theorem witness_MostSpecificRowWins : (0x00C0 : Word) &&& (Instr.sys 0).row.1 = (Instr.sys 0).row.2 ∧
    (0x00C0 : Word) &&& (Instr.scd 0).row.1 = (Instr.scd 0).row.2 := by decide
theorem witness_StepRunsTheDecodedInstruction : busy.halt = false ∧ busy.readMem busy.pc.toNat = 0xF1 ∧
    busy.readMem ((busy.pc.toNat + 1) % 4096) = 0x55 ∧ decode (wordOfBytes 0xF1 0x55) = .ldMemVx 1 := by decide
/-- At the last address the second byte comes from 0x000, the font's first byte (2.2). -/
theorem witness_StepRunsTheDecodedInstruction_wrap : (State.reset.setPc 0xFFF).halt = false ∧
    (State.reset.setPc 0xFFF).readMem 0xFFF = 0x00 ∧ (State.reset.setPc 0xFFF).readMem ((0xFFF + 1) % 4096) = 0xF0 ∧
    decode (wordOfBytes 0x00 0xF0) = .sys 0x0F0 := by decide
theorem witness_HaltedStepChangesNothing : (busy.raiseFatal .stackOverflow 0x2300).halt = true := by decide
theorem witness_StepRaisesExactlyTheFatalConditions : (before 0x8008).halt = false ∧
    fatalCause (decode (before 0x8008).fetch) (before 0x8008) = some .invalidInstruction ∧
    fatalCause (decode (before 0x00FB).fetch) (before 0x00FB) = some .unimplementedInstruction ∧
    fatalCause (.call 0x300) (withStack 16 0 State.reset) = some .stackOverflow ∧
    fatalCause .ret State.reset = some .stackUnderflow ∧ fatalCause (decode (before 0x00EE).fetch) (before 0x00EE) = none := by
  decide
theorem witness_PlacedWordRunsNext : busy.halt = false ∧ busy.mem.wf busy.params = true := by decide
theorem witness_ImmediateSkips : busy.reg 0 = 0x6A ∧ busy.reg 0 ≠ 0x6B := by decide
theorem witness_RegisterSkips : busy.reg 2 = busy.reg 3 ∧ busy.reg 0 ≠ busy.reg 1 := by decide
theorem witness_KeySkips : (10 : Fin 16).val = ((State.reset.setReg 5 0xFA).reg 5).toNat % 16 ∧
    (State.reset.setKeys (keysDown [10])).keyDown 10 = true ∧ (State.reset.setKeys (keysDown [10])).keyDown 11 = false := by
  decide
theorem witness_CallPushesTheNextAddress : (withStack 15 0 State.reset).sp.val < 16 ∧ State.reset.sp.val < 16 ∧
    (withStack 16 0 State.reset).sp.val = 16 := by decide
theorem witness_ReturnGoesToTheNewestAddress : 0 < (withStack 1 0x123 State.reset).sp.val ∧
    0 < (withStack 16 0xFFF State.reset).sp.val ∧ State.reset.sp.val = 0 := by decide
theorem witness_ReturnComesBackAfterTheCall : (withStack 15 0x222 State.reset).sp.val < 16 ∧
    exec (.call 0xABC) (withStack 15 0x222 State.reset) =
      .next { withStack 16 0x202 (withStack 15 0x222 State.reset) with pc := 0xABC } ∧
    ({ withStack 16 0x202 (withStack 15 0x222 State.reset) with pc := 0x400, dt := 7 } : State).sp = 16 :=
  ⟨by decide, givesNext_eq (by decide), by decide⟩
/-- The destinations other than and equal to register 15, for the flag instructions. -/
theorem witness_AddRegistersWithCarry_SubtractionsWithNoBorrow_ShiftsKeepTheBitShiftedOut : (1 : Reg) ≠ 15 ∧ ¬(15 : Reg) ≠ 15 ∧ (14 : Reg) ≠ 15 := by decide
theorem witness_OnlyFlagInstructionsSetTheFlag : definesFlag (.shr 15 0) ∧
    exec (.shr 15 0) (State.reset.setReg 15 3) = .next ((State.reset.setReg 15 1).setPc 0x202) ∧
    ¬definesFlag (.ldImm 14 0x55) ∧ ¬writesReg (.ldImm 14 0x55) flagReg ∧
    exec (.ldImm 14 0x55) State.reset = .next ((State.reset.setReg 14 0x55).setPc 0x202) :=
  ⟨trivial, givesNext_eq (by decide), id, show ¬((15 : Reg) = 14) by decide, givesNext_eq (by decide)⟩
theorem witness_RegisterWritesAreThoseOfTheTable : exec (.ldVxMem 1) State.reset =
      .next (((State.reset.setReg 0 0xF0).setReg 1 0x90).setPc 0x202) ∧ ¬writesReg (.ldVxMem 1) 2 :=
  ⟨givesNext_eq (by decide), show ¬((2 : Reg) ≤ 1) by decide⟩
theorem witness_SameRegisterOperands : (Instr.orReg 3 3 = .ldReg 3 3 ∨ Instr.orReg 3 3 = .orReg 3 3 ∨
    Instr.orReg 3 3 = .andReg 3 3) ∧ (Instr.subn 15 15 = .sub 15 15 ∨ Instr.subn 15 15 = .subn 15 15) := by decide
/-- The word 0xF129 at 0x200, `V[1] = 15`, the last digit. -/
def runsLdF (p : Params) : State := ((State.resetWith p).withFetchWord 16 0xF129).setReg 1 15
/-- A state that holds a program and runs `LD F`: the font, and not all of memory, reads as right after reset. -/
theorem witness_FontAddressPointsAtTheGlyph : ((runsLdF .standard).reg 1).toNat < 16 ∧
    (∀ k < 80, (runsLdF .standard).readMem ((runsLdF .standard).params.fontBase.val + k) =
      (State.resetWith (runsLdF .standard).params).readMem ((runsLdF .standard).params.fontBase.val + k)) ∧
    (runsLdF .standard).params = Params.standard ∧ 5 * 15 + 4 < 80 ∧ decode (runsLdF .standard).fetch = .ldF 1 ∧
    (runsLdF .standard).readMem 0x200 ≠ State.reset.readMem 0x200 := by decide
/-- The same with the font at its largest base, which ends just below the program. -/
theorem witness_FontAddressPointsAtTheGlyph_largest_base : ((runsLdF smallParams).reg 1).toNat < 16 ∧
    (∀ k < 80, (runsLdF smallParams).readMem ((runsLdF smallParams).params.fontBase.val + k) =
      (State.resetWith (runsLdF smallParams).params).readMem ((runsLdF smallParams).params.fontBase.val + k)) ∧
    decode (runsLdF smallParams).fetch = .ldF 1 := by decide
/-- Stores that wrap at the top of memory: 0xFFE has a byte of the block and a byte outside it beside it. -/
theorem witness_DecimalDigitsAreStored : (busy.setI 0xFFE).mem.wf busy.params = true ∧
    ∀ k < 3, 0x002 % 4096 ≠ ((busy.setI 0xFFE).i.toNat + k) % 4096 := by decide
theorem witness_BlockStoreWritesTheRegisters : (busy.setI 0xFFF).mem.wf busy.params = true ∧ (15 : Reg) ≤ 15 ∧
    ∀ k : Reg, k ≤ 15 → 0xFFE % 4096 ≠ ((busy.setI 0xFFF).i.toNat + k.val) % 4096 := by decide
theorem witness_BlockLoadReadsTheRegisters : (0 : Reg) ≤ 0 ∧ (15 : Reg) ≤ 15 ∧ (0 : Reg) < 1 ∧ (14 : Reg) < 15 := by decide
theorem witness_BlockLoadGivesBackTheBlockStored : State.reset.mem.wf State.reset.params = true ∧
    exec (.ldMemVx 0) (State.reset.setI 0x400) = .next ((State.reset.setI 0x400).setPc 0x202) ∧
    (∀ a, ((State.reset.setI 0x400).setReg 0 9).readMem a = ((State.reset.setI 0x400).setPc 0x202).readMem a) ∧
    ((State.reset.setI 0x400).setReg 0 9).i = ((State.reset.setI 0x400).setPc 0x202).i :=
  ⟨by decide, givesNext_eq (by decide), fun _ => rfl, by decide⟩
theorem witness_StoredWordRunsAtTheNextStep : busy.mem.wf busy.params = true ∧ busy.halt = false ∧ decode busy.fetch = .ldMemVx 1 ∧
    1 ≤ (1 : Reg).val ∧ busy.i.toNat = (busy.pc.toNat + 2) % 4096 ∧
    Machine.step busy = .next { busy with pc := 0x202, mem := [(0x200, 0xF1), (0x201, 0x55), (0x202, 0x6A), (0x203, 0x77)] } :=
  ⟨by decide, by decide, by decide, by decide, by decide, givesNext_eq (by decide)⟩
/-- The glyph of 0 at (0, 0): cell (0, 0) is a cell of the sprite and on, cell (1, 1) is none of the sprite. -/
theorem witness_DrawTurnsOverTheSpriteCells : (State.reset.setDisplay [(0, 0)]).disp.wf State.reset.params = true ∧
    8 ≤ State.reset.params.screenW.val ∧ 15 ≤ State.reset.params.screenH.val ∧
    SpriteBit (State.reset.setDisplay [(0, 0)]) 0 0 5 (0, 0) ∧ (State.reset.setDisplay [(0, 0)]).disp.cell (0, 0) = true ∧
    ¬SpriteBit (State.reset.setDisplay [(0, 0)]) 0 0 5 (1, 1) := by
  refine ⟨by decide, by decide, by decide, ⟨0, by decide, 0, by decide, by decide, by decide⟩, by decide, ?_⟩
  simp only [SpriteBit]
  decide
/-- On a screen 4 wide the byte 0x98 reaches (0, 0) twice and (3, 0) once; (1, 0) is reached by no bit. -/
theorem witness_DrawTogglesACellOncePerSpriteBit : (small.setDisplay [(1, 0)]).disp.wf small.params = true ∧
    spriteHits small 0 0 1 (0, 0) = 2 ∧ spriteHits small 0 0 1 (3, 0) = 1 ∧ spriteHits small 0 0 1 (1, 0) = 0 := by decide
/-- A draw without a collision: every cell reached is reached once and was off. -/
theorem witness_DrawTogglesACellOncePerSpriteBit_no_collision : ∀ c, 0 < spriteHits State.reset 0 0 0 c →
    State.reset.disp.cell c = false ∧ spriteHits State.reset 0 0 0 c = 1 := fun _ h => absurd h (lt_irrefl 0)
/-- With no rows there is no cell of the sprite (R102). -/
theorem witness_DrawTurnsOverTheSpriteCells_empty : ∀ c, ¬SpriteBit State.reset 0 0 0 c := by
  rintro c ⟨r, hr, _⟩
  omega
theorem witness_DrawTwiceRestoresTheDisplay : State.reset.disp.wf State.reset.params = true ∧ (0 : Reg) ≠ 15 ∧ (1 : Reg) ≠ 15 ∧
    exec (.drw 0 1 1) State.reset = .next ((State.reset.setDisplay [(0, 0), (1, 0), (2, 0), (3, 0)]).setPc 0x202) ∧
    exec (.drw 0 1 1) ((State.reset.setDisplay [(0, 0), (1, 0), (2, 0), (3, 0)]).setPc 0x202) =
      .next ((State.reset.setReg 15 1).setPc 0x204) :=
  ⟨by decide, by decide, by decide, givesNext_eq (by decide), givesNext_eq (by decide)⟩
theorem witness_WaitForKeyTakesTheLeastOrHolds : (State.reset.setKeys (keysDown [15])).keyDown 15 = true ∧
    (∀ j < (15 : Fin 16), (State.reset.setKeys (keysDown [15])).keyDown j = false) ∧
    (State.reset.setKeys (keysDown [0])).keyDown 0 = true ∧ ∀ k, State.reset.keyDown k = false := by decide
theorem witness_OnlyKeyInstructionsReadTheKeys_OnlyDrawReadsTheDisplay : exec (.ldImm 1 0x12) State.reset = .next ((State.reset.setReg 1 0x12).setPc 0x202) ∧
    (∀ x, Instr.ldImm 1 0x12 ≠ .skp x ∧ Instr.ldImm 1 0x12 ≠ .sknp x ∧ Instr.ldImm 1 0x12 ≠ .ldVxK x) ∧
    (∀ x y n, Instr.ldImm 1 0x12 ≠ .drw x y n) :=
  ⟨givesNext_eq (by decide), fun _ => ⟨nofun, nofun, nofun⟩, fun _ _ _ => nofun⟩
theorem witness_OnlyTheNamedInstructionsWrite :
    (∀ a x, Instr.ldImm 1 0x12 ≠ .ldI a ∧ Instr.ldImm 1 0x12 ≠ .addI x ∧ Instr.ldImm 1 0x12 ≠ .ldF x) ∧
    (∀ a, Instr.ldImm 1 0x12 ≠ .call a ∧ Instr.ldImm 1 0x12 ≠ .ret) ∧ (∀ x, Instr.ldImm 1 0x12 ≠ .ldDtVx x) ∧
    (∀ x, Instr.ldImm 1 0x12 ≠ .ldStVx x) ∧ (∀ x, Instr.ldImm 1 0x12 ≠ .ldB x ∧ Instr.ldImm 1 0x12 ≠ .ldMemVx x) ∧
    (∀ x y n, Instr.ldImm 1 0x12 ≠ .cls ∧ Instr.ldImm 1 0x12 ≠ .drw x y n) :=
  ⟨fun _ _ => ⟨nofun, nofun, nofun⟩, fun _ => ⟨nofun, nofun⟩, fun _ => nofun, fun _ => nofun,
    fun _ => ⟨nofun, nofun⟩, fun _ _ _ => ⟨nofun, nofun⟩⟩
theorem witness_SoundTimerIsNeverRead : exec (.ldStVx 3) (State.reset.setReg 3 5) =
    .next (((State.reset.setReg 3 5).setSt 5).setPc 0x202) := givesNext_eq (by decide)
theorem witness_CanonicalMemoriesThatReadTheSameAreEqual : 
    Memory.wf Params.standard [(0x000, 0x01), (0xFFF, 0xA1)] = true ∧
    ∀ a, Memory.read Params.standard [(0x000, 0x01), (0xFFF, 0xA1)] a =
      Memory.read Params.standard [(0x000, 0x01), (0xFFF, 0xA1)] a :=
  ⟨by decide, fun _ => rfl⟩
/-- A running state that halts, and the halted state. -/
theorem witness_StepKeepsTheInvariant : (before 0x8008).inv = true ∧
    Machine.step (before 0x8008) = .next ((before 0x8008).raiseFatal .invalidInstruction 0x8008) ∧
    ((before 0x8008).raiseFatal .invalidInstruction 0x8008).inv = true ∧ busy.inv = true :=
  ⟨by decide, givesNext_eq (by decide), by decide, by decide⟩
theorem witness_EveryMoveKeepsTheInvariant : (System.mk busy .running).core.inv = true ∧
    System.act (.setDelay 7) ⟨busy, .running⟩ = .next ⟨busy.setDt 7, .running⟩ := ⟨by decide, givesNext_eq (by decide)⟩
theorem witness_ParametersAreThoseGivenAndStayFixed : System.actAll [.reset, .load [0x61, 0x12], .step, .tick] ⟨small, .running⟩ =
    .next ⟨((small.hostReset.loadImage [0x61, 0x12]).setReg 1 0x12).setPc 0x202, .running⟩ ∧ 5 * 15 + 4 < 80 :=
  ⟨givesNext_eq (by decide), by decide⟩
theorem witness_EveryReachableSystemHasTheInvariant : Reachable ⟨State.reset.hostReset, .fresh⟩ ∧
    Reachable ⟨State.reset.hostReset.tick, .fresh⟩ :=
  ⟨.powerOn _, .move .tick _ _ (.powerOn State.reset) rfl⟩
theorem witness_LoadPlacesTheImage : ([] : List Byte).length ≤ 3584 ∧ (List.replicate 3584 (0x61 : Byte)).length ≤ 3584 ∧
    State.reset.mem.wf State.reset.params = true ∧ (List.replicate 3585 (0x61 : Byte)).length > 3584 ∧
    0 < (List.replicate 3584 (0x61 : Byte)).length ∧ 3583 < (List.replicate 3584 (0x61 : Byte)).length := by
  simp only [List.length_replicate]
  decide
theorem witness_HostNeverWritesMemoryAfterTheFirstStep : (System.mk busy .running).phase = .running ∧ Action.tick ≠ .reset ∧
    Action.tick ≠ .step ∧ System.act .tick ⟨busy, .running⟩ = .next ⟨busy, .running⟩ :=
  ⟨rfl, by decide, by decide, givesNext_eq (by decide)⟩
theorem witness_HaltedUntilReset : (busy.raiseFatal .stackOverflow 0x2300).halt = true ∧
    Action.reset ∉ [Action.tick, .step, .setDelay 7] ∧
    System.actAll [.tick, .step, .setDelay 7] ⟨busy.raiseFatal .stackOverflow 0x2300, .running⟩ =
      .next ⟨(busy.raiseFatal .stackOverflow 0x2300).setDt 7, .running⟩ :=
  ⟨by decide, by decide, givesNext_eq (by decide)⟩
/-- The last byte of the font, the first and the last byte beyond it, the first and the last entry (R36, R45). -/
theorem witness_ResetGivesTheListedValues : [0x000, 0x04F, 0x050, 0xFFF].map State.reset.readMem = [0xF0, 0x80, 0, 0] ∧
    State.reset.stackEntry 1 = some 0 ∧ State.reset.stackEntry 16 = some 0 ∧ State.reset.pc = 0x200 := by decide
/-- A tick on a timer above 0 and on one at 0 (R137). -/
theorem witness_TickCountsDownToZero : ((State.reset.setDt 2).tick).dt = 1 ∧ ((State.reset.setDt 2).tick).st = 0 := by
  decide

end Sys2Proof.Tests
end

