-- ==== Sys2Proof/Proofs/Parameters.lean ====
section
/-! Nothing changes the parameters (R34): no operation on the state, no instruction, no step, no move and no sequence of
moves. On the way, what a step, a load and a sequence of moves can do, for every later proof about `System.act`. -/

namespace Sys2Proof.Machine

open Sys2Proof.Spec

/-! ### The operations that `Laws/State.lean` has no field lemma for -/

@[simp] theorem writeBytes_params (s : State) (a : Nat) (bs : List Byte) : (s.writeBytes a bs).params = s.params := by
  rw [writeBytes_eq]

@[simp] theorem hostReset_params (s : State) : s.hostReset.params = s.params := rfl

theorem push_params {s t : State} {a : Addr} (h : s.push a = some t) : t.params = s.params := by
  obtain ⟨-, -, -, ht⟩ := push_eq_some s t a h
  rw [ht]

theorem pop_params {s t : State} {a : Addr} (h : s.pop = some (a, t)) : t.params = s.params := by
  obtain ⟨-, -, ht⟩ := pop_eq_some s t a h
  rw [ht]

/-! ### An instruction and a step -/

/-- A meaning whose answer is a state with the parameters of `s` keeps the parameters. -/
theorem params_of_next_eq {s t u : State} (h : (.next u : Result) = .next t) (hu : u.params = s.params) :
    t.params = s.params := by
  cases h
  exact hu

theorem execRet_params {s t : State} (h : execRet s = .next t) : t.params = s.params := by
  unfold execRet at h
  split at h
  · exact params_of_next_eq h (raiseFatal_params ..)
  · next hpop => exact params_of_next_eq h ((setPc_params ..).trans (pop_params hpop))

theorem execCall_params {nnn : Addr} {s t : State} (h : execCall nnn s = .next t) : t.params = s.params := by
  unfold execCall at h
  split at h
  · exact params_of_next_eq h (raiseFatal_params ..)
  · next hpush => exact params_of_next_eq h ((setPc_params ..).trans (push_params hpush))

theorem execLdVxK_params {x : Reg} {s t : State} (h : execLdVxK x s = .next t) : t.params = s.params := by
  unfold execLdVxK at h
  split at h
  · exact params_of_next_eq h rfl
  · exact params_of_next_eq h rfl

/-- No instruction changes the parameters. Three kinds choose between two outcomes and two store a row of bytes; every other
kind answers with updates of other fields. -/
theorem exec_params {i : Instr} {s t : State} (h : exec i s = .next t) : t.params = s.params := by
  cases i with
  | ret => exact execRet_params h
  | call nnn => exact execCall_params h
  | ldVxK x => exact execLdVxK_params h
  | ldB x => exact params_of_next_eq h (writeBytes_params ..)
  | ldMemVx x => exact params_of_next_eq h (writeBytes_params ..)
  | _ => exact params_of_next_eq h rfl

theorem step_of_halt {s : State} (h : s.halt = true) : step s = .next s := if_pos h

theorem step_of_not_halt {s : State} (h : ¬s.halt = true) : step s = exec (decode s.fetch) s := if_neg h

theorem step_params {s t : State} (h : step s = .next t) : t.params = s.params := by
  by_cases hs : s.halt = true
  · exact params_of_next_eq (step_of_halt hs ▸ h) rfl
  · exact exec_params (step_of_not_halt hs ▸ h)

/-! ### A move -/

/-- A requested step runs `step` and leaves phase `running`. -/
theorem act_step_eq_next {y z : System} :
    y.act .step = .next z ↔ ∃ t, step y.core = .next t ∧ z = ⟨t, .running⟩ := by
  simp only [System.act]
  split <;> next hstep => simp [hstep, eq_comm]

/-- A load answers exactly when it is the first since reset and the image fits (R71, R77). -/
theorem act_load_eq_next {image : List Byte} {y z : System} :
    y.act (.load image) = .next z ↔
      y.phase = .fresh ∧ image.length ≤ Config.maxImage ∧ z = ⟨y.core.loadImage image, .loaded⟩ := by
  obtain ⟨s, phase⟩ := y
  cases phase with
  | fresh => by_cases hl : image.length ≤ Config.maxImage <;> simp [System.act, hl, eq_comm]
  | loaded => simp [System.act]
  | running => simp [System.act]

theorem act_params {a : Action} {y z : System} (h : y.act a = .next z) : z.core.params = y.core.params := by
  cases a with
  | step =>
    obtain ⟨t, ht, rfl⟩ := act_step_eq_next.1 h
    exact step_params ht
  | load image =>
    obtain ⟨-, -, rfl⟩ := act_load_eq_next.1 h
    exact writeBytes_params ..
  | reset | tick | setDelay | setSound | keys =>
    cases h
    rfl

/-! ### A sequence of moves -/

theorem actAll_cons_eq_next {a : Action} {moves : List Action} {y z : System} :
    y.actAll (a :: moves) = .next z ↔ ∃ x, y.act a = .next x ∧ x.actAll moves = .next z := by
  simp only [System.actAll]
  split <;> simp_all

/-- The induction over moves: what each of the moves keeps, the sequence keeps. -/
theorem actAll_keeps {P : System → Prop} {moves : List Action}
    (hkeep : ∀ a ∈ moves, ∀ y z, P y → y.act a = .next z → P z) {y z : System} (hy : P y)
    (h : y.actAll moves = .next z) : P z := by
  induction moves generalizing y with
  | nil =>
    cases h
    exact hy
  | cons a moves ih =>
    obtain ⟨x, hx, hz⟩ := actAll_cons_eq_next.1 h
    rw [List.forall_mem_cons] at hkeep
    exact ih hkeep.2 (hkeep.1 y x hy hx) hz

theorem actAll_params {moves : List Action} {y z : System} (h : y.actAll moves = .next z) :
    z.core.params = y.core.params :=
  actAll_keeps (P := fun x => x.core.params = y.core.params)
    (fun _ _ _ _ hx ha => (act_params ha).trans hx) rfl h

/-! ### The values this hardware takes -/

/-- The parameters in the model are the values of R6 and the glyphs of R36, digit by digit. -/
theorem standard_isStandard : StandardParameters Params.standard := by
  refine ⟨rfl, rfl, rfl, ?_⟩
  decide

/-- The font, wherever it is based, ends inside 0x000 to 0x1FF (R35). -/
theorem fontBase_le (p : Params) : p.fontBase.val ≤ 0x1B0 := Nat.le_of_lt_succ p.fontBase.isLt

/-- Settles O56: the reset state is built from the standard parameters, the bound is in the type of FONT_BASE, and moves keep
the parameters by induction over the sequence. -/
theorem parametersAreThoseGivenAndStayFixed : Obligations.ParametersAreThoseGivenAndStayFixed :=
  ⟨rfl, standard_isStandard, fun p => ⟨fontBase_le p, Nat.add_le_add_right (fontBase_le p) 79⟩,
    fun _ _ _ => actAll_params⟩

end Sys2Proof.Machine
end

section
/-! Every word is the word of the instruction it decodes to (R93, R103): no bit is lost in decoding, so the word that a
fatal instruction records in `FWORD` is the word fetched (R235). -/

namespace Sys2Proof

/-! ### A word is the format of its page, its operand fields and its function field (R91, R96) -/

theorem formatA_of_page {w : Word} {p : Nibble} (hp : fieldPage w = p) : formatA p (fieldNNN w) = w :=
  hp ▸ formatA_fields w

theorem formatXK_of_page {w : Word} {p : Nibble} (hp : fieldPage w = p) : formatXK p (fieldX w) (fieldKK w) = w :=
  hp ▸ formatXK_fields w

theorem formatXK_of_function {w : Word} {p : Nibble} {k : Byte} (hp : fieldPage w = p) (hk : fieldKK w = k) :
    formatXK p (fieldX w) k = w :=
  hk ▸ formatXK_of_page hp

theorem formatXYN_of_page {w : Word} {p : Nibble} (hp : fieldPage w = p) :
    formatXYN p (fieldX w) (fieldY w) (fieldN w) = w :=
  hp ▸ formatXYN_fields w

theorem formatXYN_of_function {w : Word} {p n : Nibble} (hp : fieldPage w = p) (hn : fieldN w = n) :
    formatXYN p (fieldX w) (fieldY w) n = w :=
  hn ▸ formatXYN_of_page hp

/-- The word of `SCD`: its upper twelve bits are 0x00C (R94). -/
theorem formatXYN_of_scd {w : Word} (h : w.extractLsb' 4 12 = (0x00C : BitVec 12)) :
    formatXYN 0x0 0 0xC (fieldN w) = w := by
  have hw : w.toNat / 16 % 4096 = 0xC := by
    simpa [BitVec.extractLsb'_toNat, Nat.shiftRight_eq_div_pow] using congrArg BitVec.toNat h
  have := w.isLt
  apply BitVec.eq_of_toNat_eq
  rw [formatXYN_toNat, fieldN_toNat, show (0x0 : Nibble).toNat = 0 from rfl, show (0 : Reg).val = 0 from rfl,
    show (0xC : Reg).val = 12 from rfl]
  omega

/-! ### Page by page (R94) -/

/-- A choice of two instructions encodes to `w` when each does under its condition. -/
theorem encode_ite {c : Prop} [Decidable c] {i j : Instr} {w : Word} (hi : c → encode i = w) (hj : ¬c → encode j = w) :
    encode (if c then i else j) = w :=
  iteInduction (motive := (encode · = w)) hi hj

theorem encode_decodePage0 {w : Word} (hp : fieldPage w = 0x0) : encode (decodePage0 w) = w := by
  unfold decodePage0
  split_ifs with hcls hret hscr hscl hlow hhigh hscd
  · exact hcls.symm
  · exact hret.symm
  · exact hscr.symm
  · exact hscl.symm
  · exact hlow.symm
  · exact hhigh.symm
  · exact formatXYN_of_scd hscd
  · exact formatA_of_page hp

theorem encode_decodePage5 {w : Word} (hp : fieldPage w = 0x5) : encode (decodePage5 w) = w :=
  encode_ite (formatXYN_of_function hp) fun _ => rfl

theorem encode_decodePage8 {w : Word} (hp : fieldPage w = 0x8) : encode (decodePage8 w) = w := by
  obtain h | h | h | h | h | h | h | h | h | ⟨-, hw⟩ := decodePage8_cases w
  case inr.inr.inr.inr.inr.inr.inr.inr.inr =>
    rw [hw]
    rfl
  all_goals
    obtain ⟨hn, hw⟩ := h
    rw [hw]
    exact formatXYN_of_function hp hn

theorem encode_decodePage9 {w : Word} (hp : fieldPage w = 0x9) : encode (decodePage9 w) = w :=
  encode_ite (formatXYN_of_function hp) fun _ => rfl

theorem encode_decodePageE {w : Word} (hp : fieldPage w = 0xE) : encode (decodePageE w) = w :=
  encode_ite (formatXK_of_function hp) fun _ => encode_ite (formatXK_of_function hp) fun _ => rfl

theorem encode_decodePageF {w : Word} (hp : fieldPage w = 0xF) : encode (decodePageF w) = w := by
  obtain h | h | h | h | h | h | h | h | h | h | h | h | ⟨-, hw⟩ := decodePageF_cases w
  case inr.inr.inr.inr.inr.inr.inr.inr.inr.inr.inr.inr =>
    rw [hw]
    rfl
  all_goals
    obtain ⟨hk, hw⟩ := h
    rw [hw]
    exact formatXK_of_function hp hk

/-- The encoder gives back every word from its instruction, with the fields that the kind ignores (R93): the word is of the
format of its page, and pages 0, 5, 8, 9, E and F have a lemma of their own. -/
theorem encode_decode (w : Word) : encode (decode w) = w := by
  unfold decode
  refine encode_ite encode_decodePage0 fun h0 => encode_ite formatA_of_page fun h1 => ?_
  refine encode_ite formatA_of_page fun h2 => encode_ite formatXK_of_page fun h3 => ?_
  refine encode_ite formatXK_of_page fun h4 => encode_ite encode_decodePage5 fun h5 => ?_
  refine encode_ite formatXK_of_page fun h6 => encode_ite formatXK_of_page fun h7 => ?_
  refine encode_ite encode_decodePage8 fun h8 => encode_ite encode_decodePage9 fun h9 => ?_
  refine encode_ite formatA_of_page fun hA => encode_ite formatA_of_page fun hB => ?_
  refine encode_ite formatXK_of_page fun hC => encode_ite formatXYN_of_page fun hD => ?_
  refine encode_ite encode_decodePageE fun hE => encode_decodePageF ?_
  bv_omega

end Sys2Proof
end

section
/-! What an instruction can do: the two outcomes of each kind that chooses between two, and, over all 44 kinds, the parts
that only named kinds write, the fault latch, the registers and the program counter. -/

namespace Sys2Proof.Machine

open Sys2Proof.Spec

/-! ### A row of stores, field by field -/

section
variable (s : State) (a : Nat) (bs : List Byte)

@[simp] theorem writeBytes_reg (k : Reg) : (s.writeBytes a bs).reg k = s.reg k := by rw [writeBytes_eq]; rfl
@[simp] theorem writeBytes_i : (s.writeBytes a bs).i = s.i := by rw [writeBytes_eq]
@[simp] theorem writeBytes_pc : (s.writeBytes a bs).pc = s.pc := by rw [writeBytes_eq]
@[simp] theorem writeBytes_sp : (s.writeBytes a bs).sp = s.sp := by rw [writeBytes_eq]
@[simp] theorem writeBytes_stack : (s.writeBytes a bs).stack = s.stack := by rw [writeBytes_eq]
@[simp] theorem writeBytes_dt : (s.writeBytes a bs).dt = s.dt := by rw [writeBytes_eq]
@[simp] theorem writeBytes_st : (s.writeBytes a bs).st = s.st := by rw [writeBytes_eq]
@[simp] theorem writeBytes_halt : (s.writeBytes a bs).halt = s.halt := by rw [writeBytes_eq]
@[simp] theorem writeBytes_cause : (s.writeBytes a bs).cause = s.cause := by rw [writeBytes_eq]
@[simp] theorem writeBytes_faddr : (s.writeBytes a bs).faddr = s.faddr := by rw [writeBytes_eq]
@[simp] theorem writeBytes_fword : (s.writeBytes a bs).fword = s.fword := by rw [writeBytes_eq]
@[simp] theorem writeBytes_disp : (s.writeBytes a bs).disp = s.disp := by rw [writeBytes_eq]
@[simp] theorem writeBytes_keys : (s.writeBytes a bs).keys = s.keys := by rw [writeBytes_eq]

end

/-! ### The kinds that choose between two outcomes (R141, R143, R195) -/

section
variable {s t : State} {nnn : Addr} {x : Reg} {k : Fin 16}

theorem execRet_of_empty (h : s.sp.val = 0) : execRet s = fatal .stackUnderflow .ret s := by
  rw [execRet, (pop_eq_none_iff s).2 h]

theorem execRet_of_held (h : 0 < s.sp.val) :
    execRet s = .next { s with sp := ⟨s.sp.val - 1, by omega⟩, pc := s.stack[s.sp.val - 1] } := by
  rw [execRet, State.pop, dif_pos h]
  rfl

theorem execCall_of_full (h : s.sp.val = 16) : execCall nnn s = fatal .stackOverflow (.call nnn) s := by
  rw [execCall, (push_eq_none_iff s _).2 h]

theorem execCall_of_room (h : s.sp.val < 16) :
    execCall nnn s =
      .next { s with sp := ⟨s.sp.val + 1, by omega⟩, stack := s.stack.set s.sp.val (s.pc + 2), pc := nnn } := by
  rw [execCall, State.push, dif_pos h]
  rfl

theorem execLdVxK_of_key (h : s.firstKeyDown = some k) : execLdVxK x s = .next (s.setReg x (keyByte k)).advance := by
  rw [execLdVxK, h]

theorem execLdVxK_of_none (h : s.firstKeyDown = none) : execLdVxK x s = .next s := by
  rw [execLdVxK, h]

theorem execRet_cases (h : execRet s = .next t) :
    (s.sp.val = 0 ∧ t = s.raiseFatal .stackUnderflow (encode .ret)) ∨
      ∃ hsp : 0 < s.sp.val, t = { s with sp := ⟨s.sp.val - 1, by omega⟩, pc := s.stack[s.sp.val - 1] } := by
  obtain hsp | hsp := Nat.eq_zero_or_pos s.sp.val
  · cases (execRet_of_empty hsp).symm.trans h
    exact .inl ⟨hsp, rfl⟩
  · cases (execRet_of_held hsp).symm.trans h
    exact .inr ⟨hsp, rfl⟩

theorem execCall_cases (h : execCall nnn s = .next t) :
    (s.sp.val = 16 ∧ t = s.raiseFatal .stackOverflow (encode (.call nnn))) ∨
      ∃ hsp : s.sp.val < 16,
        t = { s with sp := ⟨s.sp.val + 1, by omega⟩, stack := s.stack.set s.sp.val (s.pc + 2), pc := nnn } := by
  obtain hsp | hsp : s.sp.val = 16 ∨ s.sp.val < 16 := by omega
  · cases (execCall_of_full hsp).symm.trans h
    exact .inl ⟨hsp, rfl⟩
  · cases (execCall_of_room hsp).symm.trans h
    exact .inr ⟨hsp, rfl⟩

theorem execLdVxK_cases (h : execLdVxK x s = .next t) :
    (∃ k, s.firstKeyDown = some k ∧ t = (s.setReg x (keyByte k)).advance) ∨ (s.firstKeyDown = none ∧ t = s) := by
  cases hkey : s.firstKeyDown with
  | some k =>
    cases (execLdVxK_of_key hkey).symm.trans h
    exact .inl ⟨k, rfl, rfl⟩
  | none =>
    cases (execLdVxK_of_none hkey).symm.trans h
    exact .inr ⟨rfl, rfl⟩

end

/-! ### The parts that only named kinds write (R25, R28, R30, R31, R34, R40, R43) -/

/-- Settles O46: each kind is a composition of updates of named fields, so the field lemmas say what it leaves; the kinds
with two outcomes are taken outcome by outcome. -/
theorem onlyTheNamedInstructionsWrite : Obligations.OnlyTheNamedInstructionsWrite := by
  intro i s t h
  cases i with
  | ret => obtain ⟨-, rfl⟩ | ⟨-, rfl⟩ := execRet_cases h <;> simp
  | call nnn => obtain ⟨-, rfl⟩ | ⟨-, rfl⟩ := execCall_cases h <;> simp
  | ldVxK x => obtain ⟨-, -, rfl⟩ | ⟨-, rfl⟩ := execLdVxK_cases h <;> simp
  | _ =>
    cases h
    simp

/-! ### The fault latch (R230, R235) -/

/-- The latch of `t` is that of `s`. -/
def SameLatch (s t : State) : Prop := t.halt = s.halt ∧ t.cause = s.cause ∧ t.faddr = s.faddr ∧ t.fword = s.fword

/-- An instruction takes the fatal condition that the table gives it and does nothing else, or it leaves the latch. -/
theorem exec_latch {i : Instr} {s t : State} (h : exec i s = .next t) :
    (∃ c, fatalCause i s = some c ∧ t = s.raiseFatal c (encode i)) ∨ (fatalCause i s = none ∧ SameLatch s t) := by
  cases i with
  | ret =>
    obtain ⟨hsp, rfl⟩ | ⟨hsp, rfl⟩ := execRet_cases h
    · exact .inl ⟨_, if_pos hsp, rfl⟩
    · exact .inr ⟨if_neg hsp.ne', rfl, rfl, rfl, rfl⟩
  | call nnn =>
    obtain ⟨hsp, rfl⟩ | ⟨hsp, rfl⟩ := execCall_cases h
    · exact .inl ⟨_, if_pos hsp, rfl⟩
    · exact .inr ⟨if_neg hsp.ne, rfl, rfl, rfl, rfl⟩
  | ldVxK x =>
    obtain ⟨-, -, rfl⟩ | ⟨-, rfl⟩ := execLdVxK_cases h
    · exact .inr ⟨rfl, rfl, rfl, rfl, rfl⟩
    · exact .inr ⟨rfl, rfl, rfl, rfl, rfl⟩
  | scd | scr | scl | low | high | ldHf | ldRVx | ldVxR | invalid =>
    cases h
    exact .inl ⟨_, rfl, rfl⟩
  | _ =>
    cases h
    exact .inr ⟨rfl, by simp [SameLatch]⟩

/-! ### The registers (R22, R23) -/

/-- Settles O28: each kind's register writes are to its destinations of the table, and a write to one register leaves every
other. -/
theorem registerWritesAreThoseOfTheTable : Obligations.RegisterWritesAreThoseOfTheTable := by
  intro i s t h k hk
  cases i with
  | ret => obtain ⟨-, rfl⟩ | ⟨-, rfl⟩ := execRet_cases h <;> rfl
  | call nnn => obtain ⟨-, rfl⟩ | ⟨-, rfl⟩ := execCall_cases h <;> rfl
  | ldVxK x =>
    obtain ⟨-, -, rfl⟩ | ⟨-, rfl⟩ := execLdVxK_cases h
    · exact (setReg_reg ..).trans (if_neg hk)
    · rfl
  | ldImm | addImm | ldReg | orReg | andReg | xorReg | rnd | ldVxDt =>
    cases h
    exact (setReg_reg ..).trans (if_neg hk)
  | addReg | sub | subn | shr | shl =>
    cases h
    obtain ⟨hx, hflag⟩ := not_or.1 hk
    simp [hx, hflag]
  | drw x y n =>
    cases h
    simp [show k ≠ flagReg from hk]
  | ldVxMem x =>
    cases h
    simp [show ¬k ≤ x from hk]
  | _ =>
    cases h
    simp

/-- The last write of a flag instruction stands in `VF` (R11, R23). -/
theorem setFlag_advance_flagReg (s : State) (b : Bool) : ((s.setFlag b).advance.reg flagReg).toNat ≤ 1 := by
  simpa using flagByte_le_one b

/-- The six kinds that define a flag outcome leave `VF` 0 or 1 (R23). -/
theorem exec_flagReg_le_one {i : Instr} {s t : State} (h : exec i s = .next t) (hi : definesFlag i) :
    (t.reg flagReg).toNat ≤ 1 := by
  cases i with
  | addReg | sub | subn | shr | shl | drw =>
    cases h
    exact setFlag_advance_flagReg ..
  | _ => exact hi.elim

/-- Settles O27: the flag kinds write `VF` last, and for the others the register table (R22) says it. -/
theorem onlyFlagInstructionsSetTheFlag : Obligations.OnlyFlagInstructionsSetTheFlag :=
  fun i s t h => ⟨exec_flagReg_le_one h, fun _ => registerWritesAreThoseOfTheTable i s t h flagReg⟩

end Sys2Proof.Machine
end

section
/-! The program counter after each kind (R27). -/

namespace Sys2Proof.Machine

open Sys2Proof.Spec

theorem advance_pc_toNat (s : State) : s.advance.pc.toNat = (s.pc.toNat + 2) % 4096 := by
  simp [BitVec.toNat_add]

/-- A skip on a test that decides `P` (R27, R133). -/
theorem skipIf_pc_toNat {c : Bool} {P : Prop} [Decidable P] (s : State) (hc : c = true ↔ P) :
    (s.skipIf c).pc.toNat = (s.pc.toNat + if P then 4 else 2) % 4096 := by
  by_cases hP : P
  · simp [hc.2 hP, hP, BitVec.toNat_add]
  · simp [mt hc.1 hP, hP, BitVec.toNat_add]

/-- A skip on a test that decides that `P` fails (R27, R133). -/
theorem skipIf_not_pc_toNat {c : Bool} {P : Prop} [Decidable P] (s : State) (hc : c = false ↔ P) :
    (s.skipIf c).pc.toNat = (s.pc.toNat + if P then 2 else 4) % 4096 := by
  have hnot : c = true ↔ ¬P := by simp [← hc]
  rw [skipIf_pc_toNat s hnot, ite_not]

theorem stackEntry_sp {s : State} (h : 0 < s.sp.val) : s.stackEntry s.sp.val = some s.stack[s.sp.val - 1] := by
  have hle : s.sp.val - 1 < 16 := by omega
  simp [State.stackEntry, Nat.one_le_iff_ne_zero, h.ne', hle]

theorem firstKeyDown_eq_none_iff_not_exists (s : State) : s.firstKeyDown = none ↔ ¬∃ k, s.keyDown k = true := by
  simp [firstKeyDown_eq_none]

/-- `RET` goes to the newest address, or stays (R134, R233). -/
theorem execRet_nextPc (s : State) : ∃ t, execRet s = .next t ∧ t.pc.toNat = nextPc .ret s := by
  obtain hsp | hsp := Nat.eq_zero_or_pos s.sp.val
  · refine ⟨_, execRet_of_empty hsp, ?_⟩
    simp [nextPc, State.stackEntry, hsp]
  · refine ⟨_, execRet_of_held hsp, ?_⟩
    simp [nextPc, stackEntry_sp hsp]

/-- `CALL` goes to `NNN`, or stays (R134, R232). -/
theorem execCall_nextPc (nnn : Addr) (s : State) : ∃ t, execCall nnn s = .next t ∧ t.pc.toNat = nextPc (.call nnn) s := by
  obtain hsp | hsp : s.sp.val = 16 ∨ s.sp.val < 16 := by omega
  · exact ⟨_, execCall_of_full hsp, (if_pos hsp).symm⟩
  · exact ⟨_, execCall_of_room hsp, (if_neg hsp.ne).symm⟩

/-- `LD Vx, K` advances with a key down, or holds (R195). -/
theorem execLdVxK_nextPc (x : Reg) (s : State) : ∃ t, execLdVxK x s = .next t ∧ t.pc.toNat = nextPc (.ldVxK x) s := by
  cases hkey : s.firstKeyDown with
  | some k =>
    have hdown : ∃ k, s.keyDown k = true := ⟨k, ((firstKeyDown_eq_some s k).1 hkey).1⟩
    exact ⟨_, execLdVxK_of_key hkey, (advance_pc_toNat _).trans (if_pos hdown).symm⟩
  | none =>
    exact ⟨_, execLdVxK_of_none hkey, (if_neg ((firstKeyDown_eq_none_iff_not_exists s).1 hkey)).symm⟩

/-- Settles O45: jumps set `PC`, skips add 4 or 2 by their test, the fatal kinds leave it and every other kind ends with the
sequential advance. -/
theorem nextPcIsThatOfTheTable : Obligations.NextPcIsThatOfTheTable := by
  intro i s
  cases i with
  | ret => exact execRet_nextPc s
  | call nnn => exact execCall_nextPc nnn s
  | ldVxK x => exact execLdVxK_nextPc x s
  | jp nnn => exact ⟨_, rfl, rfl⟩
  | jpV0 nnn => exact ⟨_, rfl, offsetTarget_toNat nnn (s.reg 0)⟩
  | seImm x kk => exact ⟨_, rfl, skipIf_pc_toNat s beq_iff_eq⟩
  | sneImm x kk => exact ⟨_, rfl, skipIf_not_pc_toNat s bne_eq_false_iff_eq⟩
  | seReg x y => exact ⟨_, rfl, skipIf_pc_toNat s beq_iff_eq⟩
  | sneReg x y => exact ⟨_, rfl, skipIf_not_pc_toNat s bne_eq_false_iff_eq⟩
  | skp x => exact ⟨_, rfl, skipIf_pc_toNat s Iff.rfl⟩
  | sknp x => exact ⟨_, rfl, skipIf_not_pc_toNat s (iff_of_eq (Bool.not_eq_false' _))⟩
  | scd | scr | scl | low | high | ldHf | ldRVx | ldVxR | invalid => exact ⟨_, rfl, rfl⟩
  | ldB | ldMemVx =>
    refine ⟨_, rfl, (advance_pc_toNat _).trans ?_⟩
    rw [writeBytes_pc]
    rfl
  | _ => exact ⟨_, rfl, advance_pc_toNat _⟩

end Sys2Proof.Machine
end

section
/-! What no instruction reads, or only a named few: `ST` (R30), the keys (R43, R242) and the display (R40). One lemma runs an
instruction on a state whose `ST`, keys and display are replaced, and each of the three rules follows by replacing one of them. -/

namespace Sys2Proof.Machine

open Sys2Proof.Spec

/-- The state with another sound timer, other keys and another display. -/
def State.withUnread (s : State) (b : Byte) (ks : Vector Bool 16) (d : Display) : State :=
  { s with st := b, keys := ks, disp := d }

/-- The sound timer after `i`, where the run on `s` ended in `t` and the other run started with `b`: only `LD ST, Vx` writes
it (R30). -/
def soundAfter (i : Instr) (t : State) (b : Byte) : Byte :=
  match i with
  | .ldStVx _ => t.st
  | _ => b

/-- The display after `i`, where the run on `s` ended in `t` and the other run started with `d`: only `CLS` and `DRW` write
it (R40). -/
def displayAfter (i : Instr) (t : State) (d : Display) : Display :=
  match i with
  | .cls | .drw _ _ _ => t.disp
  | _ => d

/-- Stores make the same memory whatever `ST`, the keys and the display are. -/
theorem writeBytes_withUnread (s : State) (b : Byte) (ks : Vector Bool 16) (d : Display) (a : Nat) (bs : List Byte) :
    (s.withUnread b ks d).writeBytes a bs = (s.writeBytes a bs).withUnread b ks d := by
  induction bs generalizing s a with
  | nil => rfl
  | cons u us ih => exact ih (s.writeMem a u) (a + 1)

/-- An instruction does the same to every other part when `ST`, the keys, unless it reads them, and the display, unless it
draws, are replaced. -/
theorem exec_withUnread {i : Instr} {s t : State} {b : Byte} {ks : Vector Bool 16} {d : Display}
    (hks : ks = s.keys ∨ ∀ x, i ≠ .skp x ∧ i ≠ .sknp x ∧ i ≠ .ldVxK x) (hd : d = s.disp ∨ ∀ x y n, i ≠ .drw x y n)
    (h : exec i s = .next t) :
    exec i (s.withUnread b ks d) = .next (t.withUnread (soundAfter i t b) ks (displayAfter i t d)) := by
  cases i with
  | ret =>
    obtain ⟨hsp, rfl⟩ | ⟨hsp, rfl⟩ := execRet_cases h
    · exact execRet_of_empty hsp
    · exact execRet_of_held (s := s.withUnread b ks d) hsp
  | call nnn =>
    obtain ⟨hsp, rfl⟩ | ⟨hsp, rfl⟩ := execCall_cases h
    · exact execCall_of_full hsp
    · exact execCall_of_room (s := s.withUnread b ks d) hsp
  | skp x =>
    obtain rfl := hks.resolve_right fun hi => (hi x).1 rfl
    cases h
    rfl
  | sknp x =>
    obtain rfl := hks.resolve_right fun hi => (hi x).2.1 rfl
    cases h
    rfl
  | ldVxK x =>
    obtain rfl := hks.resolve_right fun hi => (hi x).2.2 rfl
    obtain ⟨k, hkey, rfl⟩ | ⟨hkey, rfl⟩ := execLdVxK_cases h
    · exact execLdVxK_of_key hkey
    · exact execLdVxK_of_none hkey
  | drw x y n =>
    obtain rfl := hd.resolve_right fun hi => hi x y n rfl
    cases h
    rfl
  | ldMemVx x =>
    cases h
    exact congrArg (fun u : State => (.next u.advance : Result)) (writeBytes_withUnread ..)
  | _ =>
    cases h
    rfl

section
variable {i : Instr} {s t : State} (h : exec i s = .next t)
include h

theorem exec_keys : t.keys = s.keys := by
  obtain ⟨-, -, -, -, -, -, hkeys, -⟩ := onlyTheNamedInstructionsWrite i s t h
  exact hkeys

theorem soundAfter_self : soundAfter i t s.st = t.st := by
  obtain ⟨-, -, -, hst, -⟩ := onlyTheNamedInstructionsWrite i s t h
  cases i with
  | ldStVx x => rfl
  | _ => exact (hst nofun).symm

theorem displayAfter_self : displayAfter i t s.disp = t.disp := by
  obtain ⟨-, -, -, -, -, hdisp, -⟩ := onlyTheNamedInstructionsWrite i s t h
  cases i with
  | cls | drw => rfl
  | _ => exact (hdisp fun _ _ _ => ⟨nofun, nofun⟩).symm

end

theorem soundAfter_eq_ite (i : Instr) (t : State) (b : Byte) [Decidable (∃ x, i = .ldStVx x)] :
    soundAfter i t b = if ∃ x, i = .ldStVx x then t.st else b := by
  cases i with
  | ldStVx x => exact (if_pos ⟨x, rfl⟩).symm
  | _ => exact (if_neg nofun).symm

/-- Settles O47: the keys and the display stand, `ST` is replaced. -/
theorem soundTimerIsNeverRead : Obligations.SoundTimerIsNeverRead := by
  intro i s t b h
  have hrun := exec_withUnread (b := b) (.inl rfl) (.inl rfl) h
  rw [displayAfter_self h, soundAfter_eq_ite] at hrun
  rw [exec_keys h]
  exact hrun

/-- Settles O48: `ST` and the display stand, the keys are replaced. -/
theorem onlyKeyInstructionsReadTheKeys : Obligations.OnlyKeyInstructionsReadTheKeys := by
  intro i s t ks hi h
  have hrun := exec_withUnread (b := s.st) (ks := ks) (.inr hi) (.inl rfl) h
  rw [displayAfter_self h, soundAfter_self h] at hrun
  exact hrun

/-- Settles O49: `ST` and the keys stand, the display is replaced. -/
theorem onlyDrawReadsTheDisplay : Obligations.OnlyDrawReadsTheDisplay := by
  intro i s t d hi h
  have hrun := exec_withUnread (b := s.st) (d := d) (.inl rfl) (.inr hi) h
  rw [soundAfter_self h] at hrun
  refine ⟨displayAfter i t d, ?_⟩
  rw [exec_keys h]
  exact hrun

end Sys2Proof.Machine
end

section
/-! The invariant (R33): every instruction, step, load, tick and key change keeps it, reset gives it, and so it holds of
everything reachable. -/

namespace Sys2Proof.Machine

open Sys2Proof.Spec

theorem inv_iff {s : State} :
    s.inv = true ↔ s.mem.wf s.params = true ∧ s.disp.wf s.params = true ∧ s.latchOk = true := by
  simp [State.inv, and_assoc]

/-! ### The fault latch -/

theorem latchOk_of_running {s : State} (h : s.halt = false) :
    s.latchOk = true ↔ s.cause = 0 ∧ s.faddr = 0 ∧ s.fword = 0 := by
  simp [State.latchOk, h, and_assoc]

/-- The latch filled by a word that raises this condition is consistent (R235). -/
theorem raiseFatal_latchOk {s : State} {c : Cause} {w : Word} (h : fatalCause (decode w) s = some c) :
    (s.raiseFatal c w).latchOk = true := by
  have hc : fatalCause (decode w) (s.raiseFatal c w) = some c := h
  simp [State.latchOk, hc]

/-! ### An instruction and a step -/

theorem exec_mem_wf {i : Instr} {s t : State} (hs : s.mem.wf s.params = true) (h : exec i s = .next t) :
    t.mem.wf t.params = true := by
  rw [exec_params h]
  obtain ⟨-, -, -, -, hmem, -⟩ := onlyTheNamedInstructionsWrite i s t h
  cases i with
  | ldB | ldMemVx =>
    cases h
    exact writeBytes_wf _ _ _ hs
  | _ => exact hmem (fun _ => ⟨nofun, nofun⟩) ▸ hs

theorem exec_disp_wf {i : Instr} {s t : State} (hs : s.disp.wf s.params = true) (h : exec i s = .next t) :
    t.disp.wf t.params = true := by
  rw [exec_params h]
  obtain ⟨-, -, -, -, -, hdisp, -⟩ := onlyTheNamedInstructionsWrite i s t h
  cases i with
  | cls =>
    cases h
    rfl
  | drw x y n =>
    cases h
    exact blit_wf _ _ _ (spriteCells_onScreen s _ _ _) hs
  | _ => exact hdisp (fun _ _ _ => ⟨nofun, nofun⟩) ▸ hs

/-- A running machine's latch is consistent after the instruction fetched: either it is still clear, or the word it records is
the word fetched, which raised the condition. -/
theorem exec_latchOk {s t : State} (hhalt : s.halt = false) (hs : s.latchOk = true)
    (h : exec (decode s.fetch) s = .next t) : t.latchOk = true := by
  obtain ⟨c, hc, rfl⟩ | ⟨-, hhalt', hcause, hfaddr, hfword⟩ := exec_latch h
  · rw [encode_decode]
    exact raiseFatal_latchOk hc
  · rw [latchOk_of_running (hhalt'.trans hhalt), hcause, hfaddr, hfword]
    exact (latchOk_of_running hhalt).1 hs

/-- Settles O51: a halted machine stays as it is, and an instruction keeps each of the three parts. -/
theorem stepKeepsTheInvariant : Obligations.StepKeepsTheInvariant := by
  intro s t hs h
  cases hhalt : s.halt with
  | true =>
    cases (step_of_halt hhalt).symm.trans h
    exact hs
  | false =>
    rw [step_of_not_halt (by simp [hhalt])] at h
    obtain ⟨hmem, hdisp, hlatch⟩ := inv_iff.1 hs
    exact inv_iff.2 ⟨exec_mem_wf hmem h, exec_disp_wf hdisp h, exec_latchOk hhalt hlatch h⟩

/-! ### Reset and the other moves -/

theorem hostReset_inv (s : State) : s.hostReset.inv = true := rfl

/-- Settles O52: nothing differs from the reset contents, no cell is on and the latch is clear. -/
theorem resetHasTheInvariant : Obligations.ResetHasTheInvariant := ⟨fun _ => rfl, hostReset_inv⟩

theorem loadImage_latchOk (s : State) (image : List Byte) : (s.loadImage image).latchOk = s.latchOk := by
  rw [State.loadImage, writeBytes_eq]
  rfl

theorem loadImage_inv {s : State} (image : List Byte) (hs : s.inv = true) : (s.loadImage image).inv = true := by
  obtain ⟨hmem, hdisp, hlatch⟩ := inv_iff.1 hs
  refine inv_iff.2 ⟨?_, ?_, (loadImage_latchOk s image).trans hlatch⟩
  · simpa [State.loadImage] using writeBytes_wf s _ image hmem
  · simpa [State.loadImage] using hdisp

/-- Settles O53: steps and loads have a lemma of their own, a reset starts from the invariant, and the timers and the keys are
no part of it. -/
theorem everyMoveKeepsTheInvariant : Obligations.EveryMoveKeepsTheInvariant := by
  intro a y z hy h
  cases a with
  | step =>
    obtain ⟨t, ht, rfl⟩ := act_step_eq_next.1 h
    exact stepKeepsTheInvariant y.core t hy ht
  | load image =>
    obtain ⟨-, -, rfl⟩ := act_load_eq_next.1 h
    exact loadImage_inv image hy
  | reset =>
    cases h
    exact hostReset_inv y.core
  | tick | setDelay | setSound | keys =>
    cases h
    exact hy

/-- Settles O54, by induction over what is reachable. -/
theorem everyReachableSystemHasTheInvariant : Obligations.EveryReachableSystemHasTheInvariant := by
  intro y hy
  induction hy with
  | powerOn s => exact hostReset_inv s
  | move a y z _ ha ih => exact everyMoveKeepsTheInvariant a y z ih ha

end Sys2Proof.Machine
end

section
/-! Memory as its reset contents and its canonical list: what each address reads as after reset (R45), where `LD F` points in
it (R35, R36), and that a canonical list is fixed by what it reads as (R31). -/

namespace Sys2Proof.Machine

open Sys2Proof.Spec

/-! ### The reset contents (R45) -/

theorem resetWith_readMem (p : Params) (a : Nat) : (State.resetWith p).readMem a = p.initialByte (a % 4096) := rfl

theorem initialByte_font (p : Params) {k : Nat} (hk : k < 80) : p.initialByte (p.fontBase.val + k) = p.fontData[k] := by
  simp [Params.initialByte, hk]

theorem initialByte_outside {p : Params} {a : Nat} (h : ¬(p.fontBase.val ≤ a ∧ a < p.fontBase.val + 80)) :
    p.initialByte a = 0 := dif_neg h

/-- The font lies inside memory, so its addresses do not wrap (R35). -/
theorem resetWith_readMem_font (p : Params) {k : Nat} (hk : k < 80) :
    (State.resetWith p).readMem (p.fontBase.val + k) = p.fontData[k] := by
  have := fontBase_le p
  rw [resetWith_readMem, Nat.mod_eq_of_lt (by omega), initialByte_font p hk]

theorem resetWith_readMem_outside {p : Params} {a : Nat} (ha : a < 4096)
    (h : ¬(p.fontBase.val ≤ a ∧ a < p.fontBase.val + 80)) : (State.resetWith p).readMem a = 0 := by
  rw [resetWith_readMem, Nat.mod_eq_of_lt ha, initialByte_outside h]

theorem resetWith_reg (p : Params) (k : Reg) : (State.resetWith p).reg k = 0 := by
  simp [State.reg, State.resetWith]

theorem resetWith_stackEntry (p : Params) {j : Nat} (h1 : 1 ≤ j) (h16 : j ≤ 16) :
    (State.resetWith p).stackEntry j = some 0 := by
  have : j - 1 < 16 := by omega
  simp [State.stackEntry, State.resetWith, h1, this]

/-- The listed reset values (R45, R260), for any parameters. -/
theorem resetWith_atReset (p : Params) : AtReset (State.resetWith p) :=
  ⟨resetWith_reg p, rfl, fun _ => resetWith_stackEntry p, rfl, rfl, rfl, rfl, fun _ => resetWith_readMem_font p,
    fun _ => resetWith_readMem_outside, rfl, rfl, rfl, rfl, fun _ => rfl⟩

/-- Settles O55: a host reset differs from the reset state of its parameters only in the keys and the draw counter, of which
the list does not speak. -/
theorem resetGivesTheListedValues : Obligations.ResetGivesTheListedValues :=
  ⟨fun p => ⟨resetWith_atReset p, rfl⟩, fun s => ⟨resetWith_atReset s.params, rfl, rfl⟩⟩

/-! ### The font (R35, R36, R182) -/

/-- The address of a digit's glyph does not wrap: the font ends below 0x200 (R35). -/
theorem glyphAddr_digit (p : Params) {b : Byte} (hb : b.toNat < 16) :
    (glyphAddr p b).toNat = p.fontBase.val + 5 * b.toNat := by
  have := fontBase_le p
  rw [glyphAddr_toNat, Nat.mod_eq_of_lt (by omega)]

/-- Where the font reads as after reset, byte `r` from a digit's glyph address is byte `5 * V[X] + r` of FONT_DATA. -/
theorem readMem_glyphAddr {s : State} {b : Byte} {r : Nat} (hb : b.toNat < 16) (hr : r < 5)
    (hfont : ∀ k < 80, s.readMem (s.params.fontBase.val + k) =
      (State.resetWith s.params).readMem (s.params.fontBase.val + k)) :
    s.readMem ((glyphAddr s.params b).toNat + r) = s.params.fontData[5 * b.toNat + r] := by
  rw [glyphAddr_digit s.params hb, Nat.add_assoc, hfont _ (by omega), resetWith_readMem_font]

/-- The glyph rows of this hardware's font (R36). -/
theorem standard_glyph {d r : Nat} (hd : d < 16) (hr : r < 5) :
    (Params.standard.fontData[5 * d + r]).toNat = (glyphRows d).getD r 0 := by
  obtain ⟨-, -, -, hrows⟩ := standard_isStandard
  exact hrows d hd r hr _

/-- Settles O31: `LD F` leaves memory and sets `I` to the glyph address of the digit. -/
theorem fontAddressPointsAtTheGlyph : Obligations.FontAddressPointsAtTheGlyph := by
  intro x s hx hfont
  refine ⟨_, rfl, fun r hr _ => readMem_glyphAddr hx hr hfont, fun hstd r hr => ?_⟩
  calc (s.readMem ((glyphAddr s.params (s.reg x)).toNat + r)).toNat
      = (s.params.fontData[5 * (s.reg x).toNat + r]).toNat := congrArg _ (readMem_glyphAddr hx hr hfont)
    _ = (Params.standard.fontData[5 * (s.reg x).toNat + r]).toNat := by rw [hstd]
    _ = (glyphRows (s.reg x).toNat).getD r 0 := standard_glyph hx hr

/-! ### The canonical list (R31) -/

section
variable {p : Params} {a b : Nat} {u w : Byte} {m m' rest rest' : Memory}

theorem lookup_head : Memory.lookup p ((a, u) :: rest) a = u := if_pos rfl

theorem lookup_tail (h : b ≠ a) : Memory.lookup p ((a, u) :: rest) b = Memory.lookup p rest b := if_neg h

/-- An address below the first entry reads as the reset contents. -/
theorem lookup_before_head (hm : Memory.wf p ((a, u) :: rest) = true) (h : b < a) :
    Memory.lookup p ((a, u) :: rest) b = p.initialByte b := by
  obtain ⟨⟨-, -, hrest⟩, -⟩ := (wf_cons a u rest).1 hm
  exact lookup_below _ _ (List.forall_mem_cons.2 ⟨h, fun c hc => h.trans (hrest c hc)⟩)

/-- The first entry of a canonical list shows: its address does not read as the reset contents. -/
theorem head_differs (hm : Memory.wf p ((a, u) :: rest) = true) : a < 4096 ∧ u ≠ p.initialByte a := by
  obtain ⟨⟨ha, hu, -⟩, -⟩ := (wf_cons a u rest).1 hm
  exact ⟨ha, hu⟩

theorem wf_tail (hm : Memory.wf p ((a, u) :: rest) = true) : rest.wf p = true := ((wf_cons a u rest).1 hm).2

/-- The first entry of one canonical list is no earlier than that of another that reads the same: there the other would show
the reset contents. -/
theorem not_head_lt (hm : Memory.wf p ((a, u) :: rest) = true) (hm' : Memory.wf p ((b, w) :: rest') = true)
    (h : ∀ c < 4096, Memory.lookup p ((a, u) :: rest) c = Memory.lookup p ((b, w) :: rest') c) : ¬a < b := by
  intro hab
  obtain ⟨ha, hu⟩ := head_differs hm
  exact hu (lookup_head.symm.trans ((h a ha).trans (lookup_before_head hm' hab)))

/-- Canonical lists with the same first address that read the same have the same rest to read. -/
theorem lookup_rest_eq (hm : Memory.wf p ((a, u) :: rest) = true) (hm' : Memory.wf p ((a, w) :: rest') = true)
    (h : ∀ c < 4096, Memory.lookup p ((a, u) :: rest) c = Memory.lookup p ((a, w) :: rest') c) :
    ∀ c < 4096, Memory.lookup p rest c = Memory.lookup p rest' c := by
  intro c hc
  obtain ⟨⟨-, -, hrest⟩, -⟩ := (wf_cons a u rest).1 hm
  obtain ⟨⟨-, -, hrest'⟩, -⟩ := (wf_cons a w rest').1 hm'
  by_cases hca : c = a
  · rw [hca, lookup_below rest a hrest, lookup_below rest' a hrest']
  · exact (lookup_tail hca).symm.trans ((h c hc).trans (lookup_tail hca))

/-- Canonical lists are compared entry by entry from the least address on. -/
theorem eq_of_lookup_eq (hm : m.wf p = true) (hm' : m'.wf p = true)
    (h : ∀ c < 4096, Memory.lookup p m c = Memory.lookup p m' c) : m = m' := by
  induction m generalizing m' with
  | nil =>
    cases m' with
    | nil => rfl
    | cons e rest' =>
      obtain ⟨hb, hw⟩ := head_differs hm'
      exact absurd (lookup_head.symm.trans (h e.1 hb).symm) hw
  | cons e rest ih =>
    cases m' with
    | nil =>
      obtain ⟨ha, hu⟩ := head_differs hm
      exact absurd (lookup_head.symm.trans (h e.1 ha)) hu
    | cons e' rest' =>
      obtain ⟨a, u⟩ := e
      obtain ⟨b, w⟩ := e'
      obtain rfl : a = b := by
        have hge := not_head_lt hm hm' h
        have hle := not_head_lt hm' hm fun c hc => (h c hc).symm
        omega
      obtain rfl : u = w := lookup_head.symm.trans ((h a (head_differs hm).1).trans lookup_head)
      rw [ih (wf_tail hm) (wf_tail hm') (lookup_rest_eq hm hm' h)]

end

/-- Settles O50: below 4096 a read is the lookup in the list. -/
theorem canonicalMemoriesThatReadTheSameAreEqual : Obligations.CanonicalMemoriesThatReadTheSameAreEqual := by
  intro p m m' hm hm' h
  refine eq_of_lookup_eq hm hm' fun c hc => ?_
  have hread := h c
  rwa [Memory.read, Memory.read, Nat.mod_eq_of_lt hc] at hread

end Sys2Proof.Machine
end

section
/-! What memory gives the fetch and what the host may do to it: the fetched word (R60), a word stored where the next fetch
reads it (R75, R131), the load (R71), and that the host has no write to memory once a step has been requested (R77). -/

namespace Sys2Proof.Machine

open Sys2Proof.Spec

/-! ### The fetched word (R60) -/

/-- Addresses that agree mod 4096 read the same byte (R63). -/
theorem readMem_congr (s : State) {a b : Nat} (h : a % 4096 = b % 4096) : s.readMem a = s.readMem b := by
  rw [State.readMem, State.readMem, ← read_mod, h, read_mod]

/-- Settles O8: the word is the concatenation of the two bytes, and the wrap of the second address is the one in the read. -/
theorem fetchIsBigEndian : Obligations.FetchIsBigEndian := by
  intro s
  have hwrap : s.readMem ((s.pc.toNat + 1) % 4096) = s.readMem (s.pc.toNat + 1) := readMem_congr s (Nat.mod_mod _ _)
  rw [State.fetch, wordOfBytes_toNat, hwrap, Nat.mul_comm]

/-! ### A word stored where the next fetch reads it (R75, R131) -/

/-- A row of at least two stores that begins at the address of `PC` gives the fetch its first two bytes. `t` is the state
after the stores; its other fields may have changed. -/
theorem fetch_of_stored {s t : State} {a : Nat} {bs : List Byte} (hm : s.mem.wf s.params = true)
    (hl : bs.length ≤ 4096) (h2 : 1 < bs.length) (hpc : t.pc.toNat = a)
    (hmem : ∀ c, t.readMem c = (s.writeBytes a bs).readMem c) : t.fetch = wordOfBytes bs[0] bs[1] := by
  have hhi : t.readMem a = bs[0] := (hmem a).trans (writeBytes_same s a bs 0 hm hl (by omega))
  have hlo : t.readMem (a + 1) = bs[1] := (hmem (a + 1)).trans (writeBytes_same s a bs 1 hm hl h2)
  rw [State.fetch, hpc, hhi, hlo]

theorem tableBytes_toNat (w : Word) : tableBytes 16 w.toNat = [highByte w, lowByte w] := by
  simp [tableBytes, Nat.mod_eq_of_lt w.isLt]

theorem decodeTableWord_toNat (w : Word) : decodeTableWord 16 w.toNat = some (decode w) := by
  simp [decodeTableWord, tableBytes_toNat, decodeBytes]

theorem withFetchWord_fetch {s : State} (w : Word) (hm : s.mem.wf s.params = true) :
    (s.withFetchWord 16 w.toNat).fetch = w := by
  rw [State.withFetchWord, placeWord, tableBytes_toNat,
    fetch_of_stored hm (by simp) (by simp) (by rw [writeBytes_pc]) fun _ => rfl]
  exact wordOfBytes_bytes w

/-- Settles O12: placing a word leaves `HALT`, and the fetch then gives the word placed. -/
theorem placedWordRunsNext : Obligations.PlacedWordRunsNext := by
  intro s w hhalt hm
  have hrunning : (s.withFetchWord 16 w.toNat).halt = false := (writeBytes_halt ..).trans hhalt
  refine ⟨decodeTableWord_toNat w, ?_⟩
  rw [step_of_not_halt (by simp [hrunning]), withFetchWord_fetch w hm]

/-- A block store of at least two registers at the address of the next instruction gives the next fetch `V[0]` and `V[1]`. -/
theorem execLdMemVx_fetch {x : Reg} {s t : State} (hm : s.mem.wf s.params = true) (hx : 1 ≤ x.val)
    (hi : s.i.toNat = (s.pc.toNat + 2) % 4096) (h : exec (.ldMemVx x) s = .next t) :
    t.fetch = wordOfBytes (s.reg 0) (s.reg 1) := by
  cases h
  have hlen := regBlock_length s x
  have hpc : (s.writeBytes s.i.toNat (s.regBlock x)).advance.pc.toNat = s.i.toNat := by
    rw [advance_pc_toNat, writeBytes_pc, hi]
  rw [fetch_of_stored hm (by omega) (by omega) hpc fun _ => rfl, regBlock_getElem, regBlock_getElem]
  rfl

/-- Settles O36: a block store leaves `HALT`, and the next fetch reads what it stored. -/
theorem storedWordRunsAtTheNextStep : Obligations.StoredWordRunsAtTheNextStep := by
  intro x s t hm hhalt hdecode hx hi h
  rw [step_of_not_halt (by simp [hhalt]), hdecode] at h
  have hrunning : t.halt = false := by
    obtain ⟨c, hc, -⟩ | ⟨-, hlatch, -⟩ := exec_latch h
    · cases hc
    · exact hlatch.trans hhalt
  rw [step_of_not_halt (by simp [hrunning]), execLdMemVx_fetch hm hx hi h]

/-! ### The load (R71, R77) -/

theorem writeBytes_frame (s : State) (a : Nat) (bs : List Byte) : Frame [.mem] [] s (s.writeBytes a bs) := by
  rw [writeBytes_eq]
  simp [Frame, State.reg, State.stackEntry]

theorem act_load_of_long {image : List Byte} {s : State} (h : image.length > Config.maxImage) :
    System.act (.load image) ⟨s, .fresh⟩ = .refused .imageTooLong := if_neg (Nat.not_le.2 h)

theorem act_load_of_running {image : List Byte} {y : System} (h : y.phase = .running) :
    y.act (.load image) = .refused .loadOutOfTurn := by
  obtain ⟨s, phase⟩ := y
  cases h
  rfl

/-- Settles O58: the load is a row of stores from 0x200 which, for an image of at most 3584 bytes, ends inside memory. -/
theorem loadPlacesTheImage : Obligations.LoadPlacesTheImage := by
  intro image s
  refine ⟨fun hl hm => ⟨⟨s.loadImage image, .loaded⟩, act_load_eq_next.2 ⟨rfl, hl, rfl⟩, ?_, ?_, writeBytes_pc ..,
    writeBytes_frame ..⟩, act_load_of_long⟩
  · exact fun k hk => writeBytes_same s _ image k hm (by omega) hk
  · intro a ha hout
    refine writeBytes_other s _ image a fun k hk => ?_
    rw [Config.programBase]
    omega

/-- Settles O59: a load answers only in phase `fresh`, and the moves left set the timers or the keys. -/
theorem hostNeverWritesMemoryAfterTheFirstStep : Obligations.HostNeverWritesMemoryAfterTheFirstStep := by
  refine ⟨fun a y z hy hreset hstep h => ?_, fun _ _ => act_load_of_running⟩
  cases a with
  | reset => exact absurd rfl hreset
  | step => exact absurd rfl hstep
  | load image => exact absurd ((act_load_of_running hy).symm.trans h) nofun
  | tick | setDelay | setSound | keys =>
    cases h
    exact ⟨rfl, hy⟩

end Sys2Proof.Machine
end

section
/-! The decoder and the encoder are inverse to each other (R94, R96, R103): every word decodes to a well-formed instruction with
that word, and every well-formed instruction is what its word decodes to. `decode_eq_iff` says both at once; the invalid words
(R99) and the full-word kinds (R98) are read off it. -/

namespace Sys2Proof

/-! ### The pages with a decoder of their own (R94) -/

theorem decode_of_page0 {w : Word} (hp : fieldPage w = 0x0) : decode w = decodePage0 w := by simp [decode, hp]
theorem decode_of_page5 {w : Word} (hp : fieldPage w = 0x5) : decode w = decodePage5 w := by simp [decode, hp]
theorem decode_of_page8 {w : Word} (hp : fieldPage w = 0x8) : decode w = decodePage8 w := by simp [decode, hp]
theorem decode_of_page9 {w : Word} (hp : fieldPage w = 0x9) : decode w = decodePage9 w := by simp [decode, hp]
theorem decode_of_pageE {w : Word} (hp : fieldPage w = 0xE) : decode w = decodePageE w := by simp [decode, hp]
theorem decode_of_pageF {w : Word} (hp : fieldPage w = 0xF) : decode w = decodePageF w := by simp [decode, hp]

/-! ### The invalid words (R99) -/

/-- The low nibbles that no kind of page 8 has. -/
theorem page8_unused_iff (n : Nibble) :
    (n == 0x8 || n == 0x9 || n == 0xA || n == 0xB || n == 0xC || n == 0xD || n == 0xF) = true ↔
      8 ≤ n.toNat ∧ n.toNat ≤ 13 ∨ n.toNat = 15 := by
  revert n
  decide

/-- The table of rule R99 in the decoder's fields. -/
theorem invalidWord_iff (w : Word) :
    invalidWord w = true ↔
      (fieldPage w = 0x5 ∧ fieldN w ≠ 0x0) ∨
      (fieldPage w = 0x8 ∧ (8 ≤ (fieldN w).toNat ∧ (fieldN w).toNat ≤ 13 ∨ (fieldN w).toNat = 15)) ∨
      (fieldPage w = 0x9 ∧ fieldN w ≠ 0x0) ∨
      (fieldPage w = 0xE ∧ fieldKK w ≠ 0x9E ∧ fieldKK w ≠ 0xA1) ∨
      (fieldPage w = 0xF ∧ pageFUsed (fieldKK w) = false) := by
  rw [← page8_unused_iff]
  simp only [invalidWord, fieldPage, fieldN, fieldKK, Bool.or_eq_true, Bool.and_eq_true, beq_iff_eq, bne_iff_ne,
    Bool.not_eq_true', or_assoc, and_assoc]

/-- The table of rule R99 in numbers. -/
theorem invalidWord_iff_toNat (w : Word) :
    invalidWord w = true ↔
      (w.toNat / 4096 = 5 ∧ w.toNat % 16 ≠ 0) ∨
      (w.toNat / 4096 = 8 ∧ (8 ≤ w.toNat % 16 ∧ w.toNat % 16 ≤ 13 ∨ w.toNat % 16 = 15)) ∨
      (w.toNat / 4096 = 9 ∧ w.toNat % 16 ≠ 0) ∨
      (w.toNat / 4096 = 14 ∧ w.toNat % 256 ≠ 0x9E ∧ w.toNat % 256 ≠ 0xA1) ∨
      (w.toNat / 4096 = 15 ∧
        w.toNat % 256 ∉ [0x07, 0x0A, 0x15, 0x18, 0x1E, 0x29, 0x30, 0x33, 0x55, 0x65, 0x75, 0x85]) := by
  simp [invalidWord_iff, pageFUsed, ← BitVec.toNat_inj, fieldPage_toNat, fieldN_toNat, fieldKK_toNat]

theorem decodePage8_of_unused {w : Word}
    (hn : 8 ≤ (fieldN w).toNat ∧ (fieldN w).toNat ≤ 13 ∨ (fieldN w).toNat = 15) : decodePage8 w = .invalid w := by
  have hne (k : Nibble) (hk : ¬(8 ≤ k.toNat ∧ k.toNat ≤ 13 ∨ k.toNat = 15)) : fieldN w ≠ k := fun h => hk (h ▸ hn)
  simp [decodePage8, hne]

theorem decodePageF_of_unused {w : Word} (hk : pageFUsed (fieldKK w) = false) : decodePageF w = .invalid w := by
  have hne (k : Byte) (hused : ¬pageFUsed k = false) : fieldKK w ≠ k := fun h => hused (h ▸ hk)
  simp [decodePageF, hne, pageFUsed]

theorem decode_of_invalidWord {w : Word} (h : invalidWord w = true) : decode w = .invalid w := by
  obtain ⟨hp, hn⟩ | ⟨hp, hn⟩ | ⟨hp, hn⟩ | ⟨hp, h9E, hA1⟩ | ⟨hp, hk⟩ := (invalidWord_iff w).1 h
  · exact (decode_of_page5 hp).trans (if_neg hn)
  · exact (decode_of_page8 hp).trans (decodePage8_of_unused hn)
  · exact (decode_of_page9 hp).trans (if_neg hn)
  · exact (decode_of_pageE hp).trans ((if_neg h9E).trans (if_neg hA1))
  · exact (decode_of_pageF hp).trans (decodePageF_of_unused hk)

/-! ### Page 0, the page whose patterns overlap (R94, R98, R100) -/

theorem formatA_inj {p : Nibble} {a b : Addr} : formatA p a = formatA p b ↔ a = b :=
  ⟨fun h => by simpa using congrArg fieldNNN h, congrArg _⟩

/-- On page 0 the upper twelve bits of a word are 0x00C exactly when the upper eight of `NNN` are 0x0C. -/
theorem upper_formatA_iff (a : Addr) :
    (formatA 0x0 a).extractLsb' 4 12 = (0x00C : BitVec 12) ↔ a.extractLsb' 4 8 = 0x0C := by
  have := a.isLt
  simp [← BitVec.toNat_inj, formatA_toNat, Nat.shiftRight_eq_div_pow]
  omega

/-- Page 0 by its operand `NNN`. -/
theorem decodePage0_formatA (a : Addr) :
    decodePage0 (formatA 0x0 a) =
      if a = 0x0E0 then .cls else if a = 0x0EE then .ret else if a = 0x0FB then .scr else if a = 0x0FC then .scl
      else if a = 0x0FE then .low else if a = 0x0FF then .high
      else if a.extractLsb' 4 8 = 0x0C then .scd (fieldN (formatA 0x0 a)) else .sys a := by
  simp only [decodePage0, upper_formatA_iff, fieldNNN_formatA]
  simp only [← formatA_inj (p := 0x0)]
  rfl

theorem sysTaken_eq_false_iff (a : Addr) :
    sysTaken a = false ↔
      a ≠ 0x0E0 ∧ a ≠ 0x0EE ∧ a ≠ 0x0FB ∧ a ≠ 0x0FC ∧ a ≠ 0x0FE ∧ a ≠ 0x0FF ∧ a.extractLsb' 4 8 ≠ 0x0C := by
  simp only [sysTaken, Bool.or_eq_false_iff, beq_eq_false_iff_ne, and_assoc]

theorem decode_encode_sys {a : Addr} (h : sysTaken a = false) : decode (encode (.sys a)) = .sys a := by
  obtain ⟨hcls, hret, hscr, hscl, hlow, hhigh, hscd⟩ := (sysTaken_eq_false_iff a).1 h
  rw [encode, decode_of_page0 (fieldPage_formatA ..), decodePage0_formatA, if_neg hcls, if_neg hret, if_neg hscr,
    if_neg hscl, if_neg hlow, if_neg hhigh, if_neg hscd]

theorem decode_encode_scd (n : Nibble) : decode (encode (.scd n)) = .scd n := by
  revert n
  decide

theorem decodePage0_wellFormed {w : Word} (hp : fieldPage w = 0x0) : (decodePage0 w).wellFormed = true := by
  rw [← formatA_of_page hp, decodePage0_formatA]
  split_ifs with hcls hret hscr hscl hlow hhigh hscd
  case neg =>
    have h := (sysTaken_eq_false_iff _).2 ⟨hcls, hret, hscr, hscl, hlow, hhigh, hscd⟩
    simp [Instr.wellFormed, h]
  all_goals rfl

/-! ### From an instruction to its word and back -/

/-- Settles O1: the fields of a format are those it was made of, so the decoder finds the kind by page and function field; the
words of `SYS` and `INVALID` are those that the other kinds leave. -/
theorem decodeGivesBackEncode : Obligations.DecodeGivesBackEncode := by
  intro i hi
  cases i with
  | sys nnn => exact decode_encode_sys (by simpa [Instr.wellFormed] using hi)
  | invalid w => exact decode_of_invalidWord hi
  | scd n => exact decode_encode_scd n
  | cls | ret | scr | scl | low | high => rfl
  | jp | call | ldI | jpV0 | seImm | sneImm | ldImm | addImm | rnd | drw => simp [encode, decode]
  | seReg => simp [encode, decode_of_page5, decodePage5]
  | sneReg => simp [encode, decode_of_page9, decodePage9]
  | ldReg | orReg | andReg | xorReg | addReg | sub | shr | subn | shl => simp [encode, decode_of_page8, decodePage8]
  | skp | sknp => simp [encode, decode_of_pageE, decodePageE]
  | ldVxDt | ldVxK | ldDtVx | ldStVx | addI | ldF | ldB | ldMemVx | ldVxMem | ldHf | ldRVx | ldVxR =>
    simp [encode, decode_of_pageF, decodePageF]

/-! ### Every word has a well-formed instruction -/

/-- A choice of two instructions is well-formed when each is under its condition. -/
theorem wellFormed_ite {c : Prop} [Decidable c] {i j : Instr} (hi : c → i.wellFormed = true)
    (hj : ¬c → j.wellFormed = true) : (if c then i else j).wellFormed = true :=
  iteInduction (motive := (Instr.wellFormed · = true)) hi hj

theorem decodePage5_wellFormed {w : Word} (hp : fieldPage w = 0x5) : (decodePage5 w).wellFormed = true :=
  wellFormed_ite (fun _ => rfl) fun hn => (invalidWord_iff w).2 (.inl ⟨hp, hn⟩)

theorem decodePage8_wellFormed {w : Word} (hp : fieldPage w = 0x8) : (decodePage8 w).wellFormed = true := by
  obtain h | h | h | h | h | h | h | h | h | ⟨hn, hw⟩ := decodePage8_cases w
  case inr.inr.inr.inr.inr.inr.inr.inr.inr =>
    rw [hw]
    exact (invalidWord_iff w).2 (.inr (.inl ⟨hp, hn⟩))
  all_goals
    obtain ⟨-, hw⟩ := h
    rw [hw]
    rfl

theorem decodePage9_wellFormed {w : Word} (hp : fieldPage w = 0x9) : (decodePage9 w).wellFormed = true :=
  wellFormed_ite (fun _ => rfl) fun hn => (invalidWord_iff w).2 (.inr (.inr (.inl ⟨hp, hn⟩)))

theorem decodePageE_wellFormed {w : Word} (hp : fieldPage w = 0xE) : (decodePageE w).wellFormed = true :=
  wellFormed_ite (fun _ => rfl) fun h9E => wellFormed_ite (fun _ => rfl) fun hA1 =>
    (invalidWord_iff w).2 (.inr (.inr (.inr (.inl ⟨hp, h9E, hA1⟩))))

theorem decodePageF_wellFormed {w : Word} (hp : fieldPage w = 0xF) : (decodePageF w).wellFormed = true := by
  obtain h | h | h | h | h | h | h | h | h | h | h | h | ⟨hk, hw⟩ := decodePageF_cases w
  case inr.inr.inr.inr.inr.inr.inr.inr.inr.inr.inr.inr =>
    rw [hw]
    exact (invalidWord_iff w).2 (.inr (.inr (.inr (.inr ⟨hp, hk⟩))))
  all_goals
    obtain ⟨-, hw⟩ := h
    rw [hw]
    rfl

/-- What the decoder answers is well-formed: only pages 0, 5, 8, 9, E and F can answer `SYS` or `INVALID`. -/
theorem decode_wellFormed (w : Word) : (decode w).wellFormed = true := by
  unfold decode
  refine wellFormed_ite decodePage0_wellFormed fun h0 => wellFormed_ite (fun _ => rfl) fun h1 => ?_
  refine wellFormed_ite (fun _ => rfl) fun h2 => wellFormed_ite (fun _ => rfl) fun h3 => ?_
  refine wellFormed_ite (fun _ => rfl) fun h4 => wellFormed_ite decodePage5_wellFormed fun h5 => ?_
  refine wellFormed_ite (fun _ => rfl) fun h6 => wellFormed_ite (fun _ => rfl) fun h7 => ?_
  refine wellFormed_ite decodePage8_wellFormed fun h8 => wellFormed_ite decodePage9_wellFormed fun h9 => ?_
  refine wellFormed_ite (fun _ => rfl) fun hA => wellFormed_ite (fun _ => rfl) fun hB => ?_
  refine wellFormed_ite (fun _ => rfl) fun hC => wellFormed_ite (fun _ => rfl) fun hD => ?_
  refine wellFormed_ite decodePageE_wellFormed fun hE => decodePageF_wellFormed ?_
  bv_omega

/-- Settles O2, page by page: the answer is well-formed, and its format takes back the fields it was read from. -/
theorem encodeGivesBackEveryWord : Obligations.EncodeGivesBackEveryWord :=
  fun w => ⟨decode_wellFormed w, encode_decode w⟩

/-! ### What follows from the round trip -/

/-- The decoder answers `i` on the word of `i` and on no other, if `i` is well-formed, and never otherwise. -/
theorem decode_eq_iff {w : Word} {i : Instr} : decode w = i ↔ i.wellFormed = true ∧ encode i = w := by
  constructor
  · rintro rfl
    exact encodeGivesBackEveryWord w
  · rintro ⟨hi, rfl⟩
    exact decodeGivesBackEncode i hi

theorem decode_eq_iff_eq_encode {w : Word} {i : Instr} (hi : i.wellFormed = true) : decode w = i ↔ w = encode i := by
  rw [decode_eq_iff, and_iff_right hi, eq_comm]

theorem decode_eq_invalid_iff {w : Word} : decode w = .invalid w ↔ invalidWord w = true :=
  decode_eq_iff.trans (and_iff_left rfl)

/-- Settles O4: `INVALID` is answered on the invalid words alone, and its word is the word decoded. -/
theorem invalidWordsAreThoseOfTheTable : Obligations.InvalidWordsAreThoseOfTheTable :=
  fun w => ⟨decode_eq_invalid_iff.trans (invalidWord_iff_toNat w), fun _ h => (decode_eq_iff.1 h).2⟩

/-- Settles O5: a kind without operands is well-formed and has one word. -/
theorem fullWordKindsMatchAllBits : Obligations.FullWordKindsMatchAllBits :=
  ⟨fun _ => ⟨decode_eq_iff_eq_encode rfl, decode_eq_iff_eq_encode rfl, decode_eq_iff_eq_encode rfl,
    decode_eq_iff_eq_encode rfl, decode_eq_iff_eq_encode rfl, decode_eq_iff_eq_encode rfl⟩, rfl, rfl⟩

/-- Settles O3, by running the decoder on the ten words. -/
theorem spelledOutWordsDecode : Obligations.SpelledOutWordsDecode := by
  unfold Obligations.SpelledOutWordsDecode
  decide

end Sys2Proof
end

section
/-! The rows of the opcode map (R96): a word matches the row of the kind it decodes to, and of the rows that match a word the
decoder takes the one with the larger mask. Only the rows of `SYS` and `INVALID` match words of other kinds. -/

namespace Sys2Proof.Laws.OpcodeRow

/-- The word of an instruction matches its row. -/
theorem statement : ∀ i : Instr, Statement i
  | .sys a => sys a | .cls => cls | .ret => ret | .jp a => jp a | .call a => call a
  | .seImm x k => seImm x k | .sneImm x k => sneImm x k | .seReg x y => seReg x y | .sneReg x y => sneReg x y
  | .ldImm x k => ldImm x k | .addImm x k => addImm x k | .ldReg x y => ldReg x y
  | .orReg x y => orReg x y | .andReg x y => andReg x y | .xorReg x y => xorReg x y
  | .addReg x y => addReg x y | .sub x y => sub x y | .subn x y => subn x y | .shr x y => shr x y | .shl x y => shl x y
  | .ldI a => ldI a | .jpV0 a => jpV0 a | .rnd x k => rnd x k | .drw x y n => drw x y n | .skp x => skp x | .sknp x => sknp x
  | .ldVxDt x => ldVxDt x | .ldVxK x => ldVxK x | .ldDtVx x => ldDtVx x | .ldStVx x => ldStVx x
  | .addI x => addI x | .ldF x => ldF x | .ldB x => ldB x | .ldMemVx x => ldMemVx x | .ldVxMem x => ldVxMem x
  | .scd n => scd n | .scr => scr | .scl => scl | .low => low | .high => high
  | .ldHf x => ldHf x | .ldRVx x => ldRVx x | .ldVxR x => ldVxR x | .invalid w => invalid w

end Sys2Proof.Laws.OpcodeRow

namespace Sys2Proof

theorem matches_row_decode (w : Word) : w &&& (decode w).row.1 = (decode w).row.2 := by
  have h : encode (decode w) &&& (decode w).row.1 = (decode w).row.2 := Laws.OpcodeRow.statement (decode w)
  rwa [encode_decode] at h

/-! ### The fields that a mask keeps -/

theorem fieldPage_eq_of_and {w v : Word} (h : w &&& 0xF000 = v &&& 0xF000) : fieldPage w = fieldPage v := by
  rw [← formatA_fields w, ← formatA_fields v, page_formatA, page_formatA] at h
  simpa using congrArg fieldPage h

theorem fieldPage_fieldN_eq_of_and {w v : Word} (h : w &&& 0xF00F = v &&& 0xF00F) :
    fieldPage w = fieldPage v ∧ fieldN w = fieldN v := by
  rw [← formatXYN_fields w, ← formatXYN_fields v, function_formatXYN, function_formatXYN] at h
  exact ⟨by simpa using congrArg fieldPage h, by simpa using congrArg fieldN h⟩

theorem fieldPage_fieldKK_eq_of_and {w v : Word} (h : w &&& 0xF0FF = v &&& 0xF0FF) :
    fieldPage w = fieldPage v ∧ fieldKK w = fieldKK v := by
  rw [← formatXK_fields w, ← formatXK_fields v, function_formatXK, function_formatXK] at h
  exact ⟨by simpa using congrArg fieldPage h, by simpa using congrArg fieldKK h⟩

/-- The mask of `SCD` keeps the upper twelve bits. -/
theorem upper_eq_of_and {w : Word} (h : w &&& 0xFFF0 = 0x00C0) : w.extractLsb' 4 12 = (0x00C : BitVec 12) := by
  have hu := congrArg (BitVec.extractLsb' 4 12) h
  rw [BitVec.extractLsb'_and] at hu
  exact BitVec.and_allOnes.symm.trans hu

/-! ### Precedence (R96) -/

/-- A word that matches the row of another kind than `SYS` and `INVALID` decodes to that kind: the mask keeps every field that
the decoder looks at. -/
theorem row_decode_of_match {w : Word} {j : Instr} (h : w &&& j.row.1 = j.row.2) (hsys : ∀ a, j ≠ .sys a)
    (hinv : ∀ v, j ≠ .invalid v) : (decode w).row = j.row := by
  have hj : w &&& j.row.1 = encode j &&& j.row.1 := h.trans (Laws.OpcodeRow.statement j).symm
  cases j with
  | sys a => exact absurd rfl (hsys a)
  | invalid v => exact absurd rfl (hinv v)
  | cls | ret | scr | scl | low | high =>
    obtain rfl := BitVec.and_allOnes.symm.trans h
    rfl
  | scd n =>
    have hd : decode w = .scd (fieldN w) := decode_eq_iff.2 ⟨rfl, formatXYN_of_scd (upper_eq_of_and h)⟩
    rw [hd]
    rfl
  | jp | call | ldI | jpV0 | seImm | sneImm | ldImm | addImm | rnd | drw =>
    have hp := fieldPage_eq_of_and hj
    simp [decode, hp, encode, Instr.row]
  | seReg | sneReg | ldReg | orReg | andReg | xorReg | addReg | sub | shr | subn | shl =>
    obtain ⟨hp, hn⟩ := fieldPage_fieldN_eq_of_and hj
    simp [decode, decodePage5, decodePage8, decodePage9, hp, hn, encode, Instr.row]
  | skp | sknp | ldVxDt | ldVxK | ldDtVx | ldStVx | addI | ldF | ldB | ldMemVx | ldVxMem | ldHf | ldRVx | ldVxR =>
    obtain ⟨hp, hk⟩ := fieldPage_fieldKK_eq_of_and hj
    simp [decode, decodePageE, decodePageF, hp, hk, encode, Instr.row]

/-- Every row of page 0 looks at the whole page. -/
theorem page_mask_decodePage0 (w : Word) : 0xF000 &&& (decodePage0 w).row.1 = 0xF000 := by
  unfold decodePage0
  split_ifs <;> simp only [Instr.row] <;> rfl

/-- Settles O6: the mask of `SYS` is the page's, that of `INVALID` is empty, and any other matching row is the decoder's. -/
theorem mostSpecificRowWins : Obligations.MostSpecificRowWins := by
  refine fun w j => ⟨matches_row_decode w, fun h => ?_⟩
  cases j with
  | sys a =>
    have hp := fieldPage_eq_of_and (h.trans (Laws.OpcodeRow.statement (.sys a)).symm)
    rw [decode_of_page0 (hp.trans (fieldPage_formatA ..))]
    exact page_mask_decodePage0 w
  | invalid v => exact BitVec.zero_and
  | _ => rw [row_decode_of_match h nofun nofun, BitVec.and_self]

end Sys2Proof
end

section
/-! The step request (R130 to R132, R135), the return from a subroutine (R134) and the timer tick (R137). -/

namespace Sys2Proof.Machine

open Sys2Proof.Spec

/-! ### The step request (R131, R135) -/

/-- The fetched word is made of the byte at `PC` and the byte at `PC + 1`, wrapped (R60, R65). -/
theorem fetch_eq_wordOfBytes (s : State) :
    s.fetch = wordOfBytes (s.readMem s.pc.toNat) (s.readMem ((s.pc.toNat + 1) % 4096)) := by
  rw [State.fetch, readMem_congr s (Nat.mod_mod (s.pc.toNat + 1) 4096)]

/-- Settles O7: the two bytes are the fetched word, and a step that is not halted is `exec` of what that word decodes to. -/
theorem stepRunsTheDecodedInstruction : Obligations.StepRunsTheDecodedInstruction := by
  rintro s _ _ _ hhalt rfl rfl rfl
  rw [step_of_not_halt (by simp [hhalt]), fetch_eq_wordOfBytes]

theorem report_of_halt {s : State} (h : s.halt = true) : s.report = some (.halted s.cause s.faddr s.fword) := if_pos h

theorem surface_next_of_report {s : State} {r : Fault} (h : s.report = some r) : surface (.next s) = .fault r := by
  rw [surface, h]

/-- Settles O9: a halted step is the same state, whose report is the latch, and that report is what is surfaced. -/
theorem haltedStepChangesNothing : Obligations.HaltedStepChangesNothing := by
  intro s hhalt
  have hreport := report_of_halt hhalt
  rw [step_of_halt hhalt]
  exact ⟨rfl, hreport, surface_next_of_report hreport⟩

/-! ### The return from a subroutine (R29, R134) -/

/-- Settles O19: the `CALL` has a free entry, so `SP` then names the entry that holds `a + 2`, and the `RET` pops it. -/
theorem returnComesBackAfterTheCall : Obligations.ReturnComesBackAfterTheCall := by
  intro nnn s t u hroom hcall hsp hstack
  cases (execCall_of_room hroom).symm.trans hcall
  have hcount : u.sp.val = s.sp.val + 1 := congrArg Fin.val hsp
  have hreturn : u.stack[u.sp.val - 1] = s.pc + 2 := by simp [hstack, hcount]
  refine ⟨_, execRet_of_held (by omega), ?_, Fin.ext ?_⟩
  · exact (congrArg BitVec.toNat hreturn).trans (BitVec.toNat_add ..)
  · exact Nat.sub_eq_of_eq_add hcount

/-! ### The timer tick (R137) -/

/-- A tick takes 1 from a timer above 0 and leaves one at 0 (R137, decision D10). -/
theorem timerDown_toNat_eq_ite (b : Byte) : (timerDown b).toNat = if b.toNat > 0 then b.toNat - 1 else 0 := by
  rw [timerDown_toNat]
  split <;> omega

theorem tick_frame (s : State) : Frame [.delay, .sound] [] s s.tick := by
  simp [Frame]

/-- Settles O57: the move counts both timers down, whatever `HALT` is, and writes nothing but them. -/
theorem tickCountsDownToZero : Obligations.TickCountsDownToZero := fun y =>
  ⟨{ y with core := y.core.tick }, rfl, rfl, timerDown_toNat_eq_ite y.core.dt, timerDown_toNat_eq_ite y.core.st, rfl,
    tick_frame y.core⟩

end Sys2Proof.Machine
end

section
/-! Control flow (R140 to R148): what the jumps, the skips, `CALL` and `RET` do to the program counter and the call stack,
and that nothing else changes. -/

namespace Sys2Proof.Machine

open Sys2Proof.Spec

/-! ### Frames of the shared operations -/

theorem setPc_frame (s : State) (a : Addr) : Frame [] [] s (s.setPc a) := by
  simp [Frame]

theorem frame_of_stack_and_pc (s : State) (sp : Fin 17) (stack : Vector Addr 16) (pc : Addr) :
    Frame [.stack] [] s { s with sp := sp, stack := stack, pc := pc } := by
  simp [Frame, State.reg, State.readMem]

theorem cause_code_toNat (c : Cause) : c.code.toNat = causeNumber c := by
  cases c <;> rfl

/-- Taking a fatal condition fills the latch with its code, the address and the word, and does nothing else (R235). -/
theorem raiseFatal_haltedBy (s : State) (c : Cause) (w : Word) :
    HaltedBy (causeNumber c) w.toNat s (s.raiseFatal c w) := by
  have hframe : Frame [.latch] [] s (s.raiseFatal c w) := by simp [Frame]
  exact ⟨rfl, cause_code_toNat c, rfl, rfl, rfl, hframe⟩

/-- A skip on a test that decides `P` (R27, R133). -/
theorem skipIf_skips {c : Bool} {P : Prop} [Decidable P] (s : State) (hc : c = true ↔ P) : Skips P s (s.skipIf c) := by
  have hpc := skipIf_pc_toNat s hc
  exact ⟨fun h => by rw [hpc, if_pos h], fun h => by rw [hpc, if_neg h]⟩

/-! ### `CALL` and `RET` (R141, R143) -/

/-- Settles O17: with a free entry it is the push of `a + 2` followed by the jump; with none the push fails and the word is
`2NNN`. -/
theorem callPushesTheNextAddress : Obligations.CallPushesTheNextAddress := by
  intro nnn s
  constructor
  · intro hroom
    obtain ⟨hcount, hentry, hother, -⟩ := push_eq_some s _ (s.pc + 2) (dif_pos hroom)
    exact ⟨_, execCall_of_room hroom, rfl, hcount, ⟨_, hentry, BitVec.toNat_add ..⟩, hother,
      frame_of_stack_and_pc s _ _ _⟩
  · intro hfull
    have hword : (encode (.call nnn)).toNat = 0x2000 + nnn.toNat := formatA_toNat 0x2 nnn
    exact ⟨_, execCall_of_full hfull, hword ▸ raiseFatal_haltedBy s .stackOverflow (encode (.call nnn))⟩

/-- Settles O18: with an address held it goes to the entry `SP` names and only counts down; with none the pop fails. -/
theorem returnGoesToTheNewestAddress : Obligations.ReturnGoesToTheNewestAddress := by
  intro s
  constructor
  · intro hheld
    exact ⟨_, execRet_of_held hheld, stackEntry_sp hheld, Nat.sub_add_cancel hheld, fun _ => rfl,
      frame_of_stack_and_pc s _ _ _⟩
  · intro hempty
    exact ⟨_, execRet_of_empty hempty, raiseFatal_haltedBy s .stackUnderflow (encode .ret)⟩

/-! ### `SYS`, the jumps and the register skips (R140, R142, R144 to R148) -/

/-- Settles O13: each of the three is one write of the program counter. -/
theorem sysAndJumpsSetOnlyThePc : Obligations.SysAndJumpsSetOnlyThePc := fun nnn s =>
  ⟨⟨_, rfl, advance_pc_toNat s, setPc_frame s _⟩, ⟨_, rfl, rfl, setPc_frame s nnn⟩,
    ⟨_, rfl, offsetTarget_toNat nnn (s.reg 0), setPc_frame s _⟩⟩

/-- Settles O14: both are a skip, on the test that decides equality and on the one that decides difference. -/
theorem immediateSkips : Obligations.ImmediateSkips := fun _ _ s =>
  ⟨⟨_, rfl, skipIf_skips s beq_iff_eq, setPc_frame s _⟩, ⟨_, rfl, skipIf_skips s bne_iff_ne, setPc_frame s _⟩⟩

/-- Settles O15: the same two tests, between two registers. -/
theorem registerSkips : Obligations.RegisterSkips := fun _ _ s =>
  ⟨⟨_, rfl, skipIf_skips s beq_iff_eq, setPc_frame s _⟩, ⟨_, rfl, skipIf_skips s bne_iff_ne, setPc_frame s _⟩⟩

end Sys2Proof.Machine
end

section
/-! Loads, the ALU and random (R160 to R171, R174): every kind writes one register, some then write the flag, and the counter
advances. One lemma each for what such a write gives, what it leaves and what the flag holds; the statements add the value. -/

namespace Sys2Proof.Machine

open Sys2Proof.Spec

/-! ### One register written -/

section
variable (s : State) (x : Reg) (b : Byte) (f : Bool)

theorem setReg_advance_reg_self : (s.setReg x b).advance.reg x = b := by
  simp

theorem setReg_advance_frame : Frame [] [x] s (s.setReg x b).advance := by
  simp +contextual [Frame]

theorem countDraw_setReg_advance_frame : Frame [.draws] [x] s (s.countDraw.setReg x b).advance := by
  simp +contextual [Frame]

/-- A register written with the value it holds: no register changes (R174). -/
theorem setReg_advance_reg_of_eq {s : State} {x : Reg} {b : Byte} (hb : b = s.reg x) (k : Reg) :
    (s.setReg x b).advance.reg k = s.reg k := by
  by_cases hk : k = x
  · rw [hk, setReg_advance_reg_self, hb]
  · simp [hk]

/-! ### The flag written after the register (R11, R23) -/

theorem setReg_setFlag_advance_frame : Frame [] [x, 15] s ((s.setReg x b).setFlag f).advance := by
  simp +contextual [Frame, flagReg]

/-- The destination keeps the result unless it is the flag register. -/
theorem setReg_setFlag_advance_reg_of_ne {x : Reg} (hx : x ≠ 15) : ((s.setReg x b).setFlag f).advance.reg x = b := by
  simp [flagReg, hx]

/-- The flag stands in `VF`, whatever was written before it. -/
theorem setFlag_advance_reg_flag : (s.setFlag f).advance.reg 15 = flagByte f := by
  simp [flagReg]

theorem setFlag_decide_advance_reg_flag (P : Prop) [Decidable P] :
    ((s.setFlag (decide P)).advance.reg 15).toNat = if P then 1 else 0 := by
  rw [setFlag_advance_reg_flag, flagByte_toNat]
  simp only [decide_eq_true_eq]

end

/-! ### Results as numbers -/

theorem byte_sub_toNat (a b : Byte) : (a - b).toNat = (a.toNat + 256 - b.toNat) % 256 := by
  have hb := b.isLt
  rw [BitVec.toNat_sub]
  omega

theorem byte_shiftRight_toNat (a : Byte) : (a >>> 1).toNat = a.toNat / 2 := by
  rw [BitVec.toNat_ushiftRight, Nat.shiftRight_eq_div_pow]

theorem byte_shiftLeft_toNat (a : Byte) : (a <<< 1).toNat = 2 * a.toNat % 256 := by
  rw [BitVec.toNat_shiftLeft, Nat.shiftLeft_eq, Nat.mul_comm]

theorem bitOutRight_flagByte_toNat (a : Byte) : (flagByte (bitOutRight a)).toNat = a.toNat % 2 := by
  rw [flagByte_toNat, bitOutRight_eq]
  simp only [decide_eq_true_eq]
  split <;> omega

theorem bitOutLeft_flagByte_toNat (a : Byte) : (flagByte (bitOutLeft a)).toNat = a.toNat / 128 := by
  have ha := a.isLt
  rw [flagByte_toNat, bitOutLeft_eq]
  simp only [decide_eq_true_eq]
  split <;> omega

/-! ### Loads and the kinds without a flag (R160 to R165, R171) -/

/-- Settles O20: each is one write of its destination. -/
theorem loadImmediateAndMove : Obligations.LoadImmediateAndMove := fun x y kk s =>
  ⟨⟨_, rfl, setReg_advance_reg_self s x kk, advance_pc_toNat _, setReg_advance_frame s x kk⟩,
    ⟨_, rfl, setReg_advance_reg_self s x (s.reg y), advance_pc_toNat _, setReg_advance_frame s x (s.reg y)⟩⟩

/-- Settles O21: one write, of the sum that `BitVec` addition reduces mod 256. -/
theorem addImmediateWrapsWithoutFlag : Obligations.AddImmediateWrapsWithoutFlag := by
  intro x kk s
  refine ⟨_, rfl, ?_, advance_pc_toNat _, setReg_advance_frame s x _⟩
  rw [setReg_advance_reg_self, BitVec.toNat_add]

/-- Settles O22: one write, of a value whose bits are those of the operands combined. -/
theorem logicIsBitwiseWithoutFlag : Obligations.LogicIsBitwiseWithoutFlag := by
  intro x y s
  refine ⟨⟨_, rfl, fun b _ => ?_, advance_pc_toNat _, setReg_advance_frame s x _⟩,
    ⟨_, rfl, fun b _ => ?_, advance_pc_toNat _, setReg_advance_frame s x _⟩,
    ⟨_, rfl, fun b _ => ?_, advance_pc_toNat _, setReg_advance_frame s x _⟩⟩
  · rw [setReg_advance_reg_self, BitVec.getLsbD_or]
  · rw [setReg_advance_reg_self, BitVec.getLsbD_and]
  · rw [setReg_advance_reg_self, BitVec.getLsbD_xor]

/-- Settles O26: one write, of the drawn byte under the mask, after the draw is counted. -/
theorem randomByteUnderTheMask : Obligations.RandomByteUnderTheMask := by
  intro x kk s
  refine ⟨_, rfl, fun b _ => ?_, rfl, advance_pc_toNat _, countDraw_setReg_advance_frame s x _⟩
  rw [setReg_advance_reg_self, BitVec.getLsbD_and, State.randomByte]

/-! ### The kinds with a flag (R166 to R170) -/

/-- Settles O23: the sum, then the carry, which is the last write. -/
theorem addRegistersWithCarry : Obligations.AddRegistersWithCarry := by
  intro x y s
  refine ⟨_, rfl, fun hx => ?_, setFlag_decide_advance_reg_flag _ _, advance_pc_toNat _,
    setReg_setFlag_advance_frame s x _ _⟩
  rw [setReg_setFlag_advance_reg_of_ne s _ _ hx, BitVec.toNat_add]

/-- A difference in `V[X]` and then no borrow in `VF`, whatever the two operands are (R24). -/
theorem difference_then_noBorrow (s : State) (x : Reg) (a b : Byte) :
    ∃ t, (.next ((s.setReg x (a - b)).setFlag (noBorrow a b)).advance : Result) = .next t ∧
      (x ≠ 15 → (t.reg x).toNat = (a.toNat + 256 - b.toNat) % 256) ∧
      (t.reg 15).toNat = (if a.toNat ≥ b.toNat then 1 else 0) ∧ Advances s t ∧ Frame [] [x, 15] s t := by
  refine ⟨_, rfl, fun hx => ?_, setFlag_decide_advance_reg_flag _ _, advance_pc_toNat _,
    setReg_setFlag_advance_frame s x _ _⟩
  rw [setReg_setFlag_advance_reg_of_ne s _ _ hx, byte_sub_toNat]

/-- Settles O24: the two kinds exchange the operands and keep the destination. -/
theorem subtractionsWithNoBorrow : Obligations.SubtractionsWithNoBorrow := fun x y s =>
  ⟨difference_then_noBorrow s x (s.reg x) (s.reg y), difference_then_noBorrow s x (s.reg y) (s.reg x)⟩

/-- Settles O25: `V[X]` shifted by one, then the bit shifted out of the old `V[X]`. -/
theorem shiftsKeepTheBitShiftedOut : Obligations.ShiftsKeepTheBitShiftedOut := by
  intro x y s
  refine ⟨⟨_, rfl, fun hx => ?_, ?_, advance_pc_toNat _, setReg_setFlag_advance_frame s x _ _⟩,
    ⟨_, rfl, fun hx => ?_, ?_, advance_pc_toNat _, setReg_setFlag_advance_frame s x _ _⟩⟩
  · rw [setReg_setFlag_advance_reg_of_ne s _ _ hx, byte_shiftRight_toNat]
  · rw [setFlag_advance_reg_flag, bitOutRight_flagByte_toNat]
  · rw [setReg_setFlag_advance_reg_of_ne s _ _ hx, byte_shiftLeft_toNat]
  · rw [setFlag_advance_reg_flag, bitOutLeft_flagByte_toNat]

/-! ### The same register twice (R174) -/

/-- A byte added to itself passes 255 when its bit 7 is set. -/
theorem ite_double_gt_255 (a : Byte) : (if a.toNat + a.toNat > 255 then 1 else 0) = a.toNat / 128 := by
  have ha := a.isLt
  split <;> omega

/-- A difference of equal operands is 0, without borrow, so `VF` is 1. -/
theorem difference_of_equal {t : State} {x : Reg} {n : Nat} (hx : x ≠ 15 → (t.reg x).toNat = (n + 256 - n) % 256)
    (hflag : (t.reg 15).toNat = if n ≥ n then 1 else 0) : (x ≠ 15 → t.reg x = 0) ∧ t.reg 15 = 1 := by
  rw [Nat.add_sub_cancel_left] at hx
  rw [if_pos le_rfl] at hflag
  exact ⟨fun h => BitVec.eq_of_toNat_eq (hx h), BitVec.eq_of_toNat_eq hflag⟩

/-- Settles O29: `OR` and `AND` of a value with itself write it back, and `XOR` writes 0; the sum and the differences are
those of the statements for any two registers. -/
theorem sameRegisterOperands : Obligations.SameRegisterOperands := by
  intro x s
  obtain ⟨r, hadd, haddx, haddflag, -⟩ := addRegistersWithCarry x x s
  obtain ⟨⟨t, hsub, hsubx, hsubflag, -⟩, ⟨u, hsubn, hsubnx, hsubnflag, -⟩⟩ := subtractionsWithNoBorrow x x s
  refine ⟨?_, ⟨_, rfl, ?_⟩, ⟨r, hadd, fun hx => ?_, ?_⟩, ?_⟩
  · rintro i (rfl | rfl | rfl)
    · exact ⟨_, rfl, setReg_advance_reg_of_eq rfl⟩
    · exact ⟨_, rfl, setReg_advance_reg_of_eq BitVec.or_self⟩
    · exact ⟨_, rfl, setReg_advance_reg_of_eq BitVec.and_self⟩
  · exact (setReg_advance_reg_self ..).trans BitVec.xor_self
  · rw [haddx hx, Nat.two_mul]
  · rw [haddflag, ite_double_gt_255]
  · rintro i (rfl | rfl)
    · exact ⟨t, hsub, difference_of_equal hsubx hsubflag⟩
    · exact ⟨u, hsubn, difference_of_equal hsubnx hsubnflag⟩

end Sys2Proof.Machine
end

section
/-! The address register and memory transfer (R180 to R186): the three writers of `I`, the rows of stores of `LD B` and
`LD [I], Vx`, and the block load of `LD Vx, [I]`. -/

namespace Sys2Proof.Machine

open Sys2Proof.Spec

/-! ### The writers of `I` (R180 to R182) -/

theorem setI_advance_frame (s : State) (a : Addr) : Frame [.index] [] s (s.setI a).advance := by
  simp [Frame]

/-- Settles O30: each of the three is one write of `I`. -/
theorem indexRegisterLoads : Obligations.IndexRegisterLoads := fun nnn x s =>
  ⟨⟨_, rfl, rfl, advance_pc_toNat _, setI_advance_frame s nnn⟩,
    ⟨_, rfl, indexPlus_toNat s.i (s.reg x), advance_pc_toNat _, setI_advance_frame s _⟩,
    ⟨_, rfl, glyphAddr_toNat s.params (s.reg x), advance_pc_toNat _, setI_advance_frame s _⟩⟩

/-! ### Rows of stores (R183, R184) -/

theorem writeBytes_advances (s : State) (a : Nat) (bs : List Byte) : Advances s (s.writeBytes a bs).advance := by
  rw [Advances, advance_pc_toNat, writeBytes_pc]

theorem writeBytes_advance_frame (s : State) (a : Nat) (bs : List Byte) :
    Frame [.mem] [] s (s.writeBytes a bs).advance := writeBytes_frame s a bs

/-- Digit `k` from the left; a byte has no more than three (R183). -/
theorem bcdDigits_getElem_toNat (b : Byte) {k : Nat} (hk : k < (bcdDigits b).length) :
    (bcdDigits b)[k].toNat = b.toNat / 10 ^ (2 - k) % 10 := by
  have hb := b.isLt
  rw [bcdDigits_length] at hk
  interval_cases k <;> exact (BitVec.toNat_ofNat ..).trans (by omega)

/-- Settles O32: a row of stores of the three digits. -/
theorem decimalDigitsAreStored : Obligations.DecimalDigitsAreStored := by
  intro x s hm
  have hb := (s.reg x).isLt
  have hdigit (k : Nat) (hk : k < 3) : ((s.writeBytes s.i.toNat (bcdDigits (s.reg x))).readMem (s.i.toNat + k)).toNat =
      (s.reg x).toNat / 10 ^ (2 - k) % 10 := by
    have hk' : k < (bcdDigits (s.reg x)).length := hk
    rw [writeBytes_same s _ _ k hm (by simp [bcdDigits_length]) hk', bcdDigits_getElem_toNat]
  refine ⟨_, rfl, ?_, ?_, ?_, writeBytes_other s _ (bcdDigits (s.reg x)), writeBytes_advances ..,
    writeBytes_advance_frame ..⟩
  · exact (hdigit 0 (by decide)).trans (Nat.mod_eq_of_lt (by omega))
  · exact hdigit 1 (by decide)
  · exact (hdigit 2 (by decide)).trans (by rw [Nat.sub_self, Nat.pow_zero, Nat.div_one])

/-- Settles O33: a row of stores of the block `V[0..X]`, whose register `k` is `V[k]`. -/
theorem blockStoreWritesTheRegisters : Obligations.BlockStoreWritesTheRegisters := by
  intro x s hm
  have hlen := regBlock_length s x
  refine ⟨_, rfl, fun k hk => ?_, fun a ha => ?_, writeBytes_advances .., writeBytes_advance_frame ..⟩
  · have hk' : k.val < (s.regBlock x).length := hlen ▸ Nat.lt_succ_of_le hk
    exact (writeBytes_same s _ _ k.val hm (by omega) hk').trans (regBlock_getElem s x k hk')
  · refine writeBytes_other s _ _ a fun k hk => ?_
    rw [hlen] at hk
    exact ha ⟨k, by omega⟩ (Nat.le_of_lt_succ hk)

/-! ### The block load (R185) -/

/-- A block load writes the registers up to `V[X]`. -/
theorem loadBlock_advance_frame (s : State) (x : Reg) :
    Frame [] ((List.finRange 16).filter (· ≤ x)) s (s.loadBlock x).advance := by
  simp +contextual [Frame]

/-- Settles O34: the load reads `I + k` for `V[k]` up to `V[X]`, and the wrap is the one in the read. -/
theorem blockLoadReadsTheRegisters : Obligations.BlockLoadReadsTheRegisters := by
  intro x s
  refine ⟨_, rfl, fun k hk => ?_, fun k hk => ?_, advance_pc_toNat _, loadBlock_advance_frame s x⟩
  · calc (s.loadBlock x).reg k = s.readMem (s.i.toNat + k.val) := (loadBlock_reg s x k).trans (if_pos hk)
      _ = s.readMem ((s.i.toNat + k.val) % 4096) := readMem_congr s (Nat.mod_mod _ _).symm
  · exact (loadBlock_reg s x k).trans (if_neg (not_le.2 hk))

/-- Settles O35: the store leaves `I`, so the load reads the addresses that were written. -/
theorem blockLoadGivesBackTheBlockStored : Obligations.BlockLoadGivesBackTheBlockStored := by
  intro x s t u hm h hmem hi
  obtain ⟨t', hstore, hstored, -, -, -, hindex, -⟩ := blockStoreWritesTheRegisters x s hm
  obtain rfl : t' = t := Host.Outcome.next.inj (hstore.symm.trans h)
  obtain ⟨r, hload, hloaded, -⟩ := blockLoadReadsTheRegisters x u
  refine ⟨r, hload, fun k hk => ?_⟩
  calc r.reg k = u.readMem ((u.i.toNat + k.val) % 4096) := hloaded k hk
    _ = t'.readMem ((s.i.toNat + k.val) % 4096) := by rw [hmem, hi, hindex (by decide)]
    _ = t'.readMem (s.i.toNat + k.val) := readMem_congr t' (Nat.mod_mod _ _)
    _ = s.reg k := hstored k hk

end Sys2Proof.Machine
end

section
/-! Display, keypad and timers (R190 to R198): what a sprite does to the display in terms of how often it reaches each cell,
then the draws, the key wait, and the kinds that are one write or one skip. -/

namespace Sys2Proof.Machine

open Sys2Proof.Spec

/-! ### How often a sprite reaches a cell (R191) -/

theorem count_spriteCells (s : State) (x0 y0 n : Nat) (c : Cell) :
    (s.spriteCells x0 y0 n).count c = spriteHits s x0 y0 n c := by
  rw [State.spriteCells, List.count_flatMap, spriteHits]
  exact congrArg List.sum (List.map_congr_left fun r _ => count_spriteRow x0 y0 r (s.readMem (s.i.toNat + r)) c)

theorem mem_spriteCells_iff_spriteBit (s : State) (x0 y0 n : Nat) (c : Cell) :
    c ∈ s.spriteCells x0 y0 n ↔ SpriteBit s x0 y0 n c := by
  simp only [mem_spriteCells, SpriteBit, spriteCell, eq_comm]

/-- A cell is reached when it is one of a 1 bit. -/
theorem spriteHits_pos_iff (s : State) (x0 y0 n : Nat) (c : Cell) :
    0 < spriteHits s x0 y0 n c ↔ SpriteBit s x0 y0 n c := by
  rw [← count_spriteCells, List.count_pos_iff, mem_spriteCells_iff_spriteBit]

theorem spriteHits_eq_zero {s : State} {x0 y0 n : Nat} {c : Cell} (h : ¬SpriteBit s x0 y0 n c) :
    spriteHits s x0 y0 n c = 0 :=
  Nat.eq_zero_of_not_pos (mt (spriteHits_pos_iff s x0 y0 n c).1 h)

/-- On a screen of at least 8 columns and as many lines as the sprite has rows no cell is reached twice. -/
theorem spriteHits_eq_one {s : State} {x0 y0 n : Nat} {c : Cell} (hw : 8 ≤ s.params.screenW.val)
    (hn : n ≤ s.params.screenH.val) (h : SpriteBit s x0 y0 n c) : spriteHits s x0 y0 n c = 1 := by
  rw [← count_spriteCells]
  exact List.count_eq_one_of_mem (spriteCells_nodup s x0 y0 n hw hn) ((mem_spriteCells_iff_spriteBit s x0 y0 n c).2 h)

/-- A sprite is the same in two states with the same memory, `I` and screen. -/
theorem spriteHits_congr {s t : State} (hmem : ∀ a, t.readMem a = s.readMem a) (hi : t.i = s.i)
    (hparams : t.params = s.params) : spriteHits t = spriteHits s := by
  funext x0 y0 n c
  simp only [spriteHits, hmem, hi, hparams]

/-! ### The blit of a sprite (R191) -/

theorem blit_spriteCells_cell {s : State} (x0 y0 n : Nat) (c : Cell) (hd : s.disp.wf s.params = true) :
    (Display.blit (s.spriteCells x0 y0 n) s.disp false).1.cell c =
      (s.disp.cell c ^^ decide (spriteHits s x0 y0 n c % 2 = 1)) := by
  rw [blit_cell _ _ _ c (spriteCells_onScreen s x0 y0 n) hd, count_spriteCells]

theorem blit_spriteCells_hit {s : State} (x0 y0 n : Nat) (hd : s.disp.wf s.params = true) :
    (Display.blit (s.spriteCells x0 y0 n) s.disp false).2 = true ↔
      ∃ c, 0 < spriteHits s x0 y0 n c ∧ (s.disp.cell c = true ∨ 2 ≤ spriteHits s x0 y0 n c) := by
  simp only [blit_hit _ _ _ (spriteCells_onScreen s x0 y0 n) hd, count_spriteCells, mem_spriteCells_iff_spriteBit,
    spriteHits_pos_iff, Bool.false_eq_true, false_or]

theorem setDisplay_setFlag_advance_frame (s : State) (d : Display) (f : Bool) :
    Frame [.display] [15] s ((s.setDisplay d).setFlag f).advance := by
  simp +contextual [Frame, flagReg]

/-! ### `DRW` (R191) -/

/-- Settles O38: the draw is the blit of the sprite's cells, and the collision is the last write. -/
theorem drawTogglesACellOncePerSpriteBit : Obligations.DrawTogglesACellOncePerSpriteBit := by
  intro x y n s hd hits
  have hcell (c : Cell) := blit_spriteCells_cell (s.reg x).toNat (s.reg y).toNat n.toNat c hd
  have hhit := blit_spriteCells_hit (s.reg x).toNat (s.reg y).toNat n.toNat hd
  refine ⟨_, rfl, fun c hodd => ?_, fun c heven => ?_, fun hcollision => ?_, fun hclear => ?_, advance_pc_toNat _,
    setDisplay_setFlag_advance_frame s _ _⟩
  · refine (hcell c).trans ?_
    rw [decide_eq_true hodd, Bool.xor_true]
  · refine (hcell c).trans ?_
    rw [heven, decide_eq_false (by decide), Bool.xor_false]
  · rw [setFlag_advance_reg_flag, hhit.2 hcollision]
    rfl
  · have hnone : ¬∃ c, 0 < hits c ∧ (s.disp.cell c = true ∨ 2 ≤ hits c) := by
      rintro ⟨c, hpos, hc⟩
      obtain ⟨hoff, hone⟩ := hclear c hpos
      simp [hoff, hone] at hc
    rw [setFlag_advance_reg_flag, Bool.eq_false_iff.2 (mt hhit.1 hnone)]
    rfl

/-- Settles O39: on such a screen a cell is reached once or not at all, so this is the general draw. -/
theorem drawTurnsOverTheSpriteCells : Obligations.DrawTurnsOverTheSpriteCells := by
  intro x y n s hd hw hh bit
  obtain ⟨t, hexec, hodd, heven, hcollision, hclear, hrest⟩ := drawTogglesACellOncePerSpriteBit x y n s hd
  have hrows : n.toNat ≤ s.params.screenH.val := le_trans (Nat.le_of_lt_succ n.isLt) hh
  refine ⟨t, hexec, fun c hc => hodd c ?_, fun c hc => heven c ?_, ?_, fun hoff => hclear fun c hreached => ?_, hrest⟩
  · rw [spriteHits_eq_one hw hrows hc]
  · rw [spriteHits_eq_zero hc]
  · rintro ⟨c, hc, hon⟩
    exact hcollision ⟨c, (spriteHits_pos_iff ..).2 hc, .inl hon⟩
  · have hc : bit c := (spriteHits_pos_iff ..).1 hreached
    exact ⟨hoff c hc, spriteHits_eq_one hw hrows hc⟩

/-- Settles O40: the first draw leaves the sprite and its place, so both reach each cell equally often; a cell reached an
odd number of times is turned over twice, and if it was off the second draw finds it on. -/
theorem drawTwiceRestoresTheDisplay : Obligations.DrawTwiceRestoresTheDisplay := by
  intro x y n s t u hd hx hy ht hu
  obtain ⟨t', ht', hodd, heven, -, -, -, hreg, hi, -, -, -, hmem, -, -, -, -, hparams⟩ :=
    drawTogglesACellOncePerSpriteBit x y n s hd
  obtain rfl : t' = t := Host.Outcome.next.inj (ht'.symm.trans ht)
  obtain ⟨u', hu', hodd', heven', hcollision, hclear, -⟩ :=
    drawTogglesACellOncePerSpriteBit x y n t' (exec_disp_wf hd ht)
  obtain rfl : u' = u := Host.Outcome.next.inj (hu'.symm.trans hu)
  have hsprite := spriteHits_congr (hmem (by decide)) (hi (by decide)) hparams
  rw [hsprite, hreg x (by simpa using hx), hreg y (by simpa using hy)] at hodd' heven' hcollision hclear
  have hparity (c : Cell) := Nat.mod_two_eq_zero_or_one (spriteHits s (s.reg x).toNat (s.reg y).toNat n.toNat c)
  refine ⟨fun c => ?_, fun hoff => ⟨?_, fun hnone => ?_⟩⟩
  · obtain hc | hc := hparity c
    · rw [heven' c hc, heven c hc]
    · rw [hodd' c hc, hodd c hc, Bool.not_not]
  · rintro ⟨c, hbit⟩
    have hreached := (spriteHits_pos_iff ..).2 hbit
    refine hcollision ⟨c, hreached, ?_⟩
    obtain hc | hc := hparity c
    · exact .inr (by omega)
    · exact .inl (by rw [hodd c hc, hoff c hbit, Bool.not_false])
  · exact hclear fun c hreached => absurd ((spriteHits_pos_iff ..).1 hreached) (hnone c)

/-! ### The keypad (R192 to R195) -/

/-- Settles O41: `FirstKeyDown()` answers the least key down, which the instruction copies, or none, which is the hold. -/
theorem waitForKeyTakesTheLeastOrHolds : Obligations.WaitForKeyTakesTheLeastOrHolds := by
  intro x s
  constructor
  · intro k hdown hleast
    have hkey : s.firstKeyDown = some k := (firstKeyDown_eq_some s k).2 ⟨hdown, hleast⟩
    refine ⟨_, execLdVxK_of_key hkey, ?_, advance_pc_toNat _, setReg_advance_frame s x _⟩
    rw [setReg_advance_reg_self, keyByte_toNat]
  · intro hup
    exact execLdVxK_of_none ((firstKeyDown_eq_none s).2 hup)

/-- Settles O16: the key is the one of index `V[X] mod 16`, and each kind is a skip on its state. -/
theorem keySkips : Obligations.KeySkips := by
  intro x s k hk
  obtain rfl : k = keyIndex (s.reg x) := Fin.ext hk
  exact ⟨⟨_, rfl, skipIf_skips s Iff.rfl, setPc_frame s _⟩,
    ⟨_, rfl, skipIf_skips s (Bool.not_eq_true' _).to_iff, setPc_frame s _⟩⟩

/-! ### `CLS` and the timers (R190, R196 to R198) -/

theorem clearDisplay_advance_frame (s : State) : Frame [.display] [] s s.clearDisplay.advance := by
  simp [Frame]

/-- Settles O37: the cleared display lists no cell. -/
theorem clearTurnsEveryCellOff : Obligations.ClearTurnsEveryCellOff := fun s =>
  ⟨_, rfl, fun _ => rfl, advance_pc_toNat _, clearDisplay_advance_frame s⟩

theorem setDt_advance_frame (s : State) (b : Byte) : Frame [.delay] [] s (s.setDt b).advance := by
  simp [Frame]

theorem setSt_advance_frame (s : State) (b : Byte) : Frame [.sound] [] s (s.setSt b).advance := by
  simp [Frame]

/-- Settles O42: each of the three is one write, of a register or of a timer. -/
theorem timerRegisterMoves : Obligations.TimerRegisterMoves := fun x s =>
  ⟨⟨_, rfl, setReg_advance_reg_self s x s.dt, advance_pc_toNat _, setReg_advance_frame s x s.dt⟩,
    ⟨_, rfl, rfl, advance_pc_toNat _, setDt_advance_frame s (s.reg x)⟩,
    ⟨_, rfl, rfl, advance_pc_toNat _, setSt_advance_frame s (s.reg x)⟩⟩

end Sys2Proof.Machine
end

section
/-! The kinds that are fatal whenever they are executed (R210 to R219): `INVALID` with code 1 and the eight extended kinds
with code 2, each leaving its own word in `FWORD`. -/

namespace Sys2Proof.Machine

open Sys2Proof.Spec

/-- An instruction whose meaning is a fatal condition halts with the code of that condition and its own word (R235). -/
theorem haltedBy_of_exec_eq_fatal {i : Instr} {s : State} {c : Cause} {w : Nat} (hexec : exec i s = fatal c i s)
    (hword : (encode i).toNat = w) : ∃ t, exec i s = .next t ∧ HaltedBy (causeNumber c) w s t :=
  ⟨s.raiseFatal c (encode i), hexec, hword ▸ raiseFatal_haltedBy s c (encode i)⟩

/-! ### The words of the extended kinds with an operand (R96) -/

/-- The word `00CN`. -/
theorem encode_scd_toNat (n : Nibble) : (encode (.scd n)).toNat = 0x00C0 + n.toNat :=
  formatXYN_toNat 0x0 0 0xC n

/-- The words of page `F`. -/
theorem formatXK_pageF_toNat (x : Reg) (kk : Byte) : (formatXK 0xF x kk).toNat = 0xF000 + kk.toNat + 256 * x.val := by
  have h : (formatXK 0xF x kk).toNat = 0xF000 + x.val * 256 + kk.toNat := formatXK_toNat 0xF x kk
  omega

/-! ### `INVALID` and the extended kinds (R210, R219) -/

/-- Settles O43: the word of `INVALID` is the whole word it carries. -/
theorem invalidWordHaltsWithItsDiagnostic : Obligations.InvalidWordHaltsWithItsDiagnostic := fun _ _ =>
  haltedBy_of_exec_eq_fatal (c := .invalidInstruction) rfl rfl

/-- Settles O44: all eight raise the same condition, so only their words differ; four have no operand, and the others put
theirs in the field of their format. -/
theorem extendedKindsHaltAsUnimplemented : Obligations.ExtendedKindsHaltAsUnimplemented := by
  intro x n s
  have halts {i : Instr} {w : Nat} (hexec : exec i s = fatal .unimplementedInstruction i s)
      (hword : (encode i).toNat = w) : ∃ t, exec i s = .next t ∧ HaltedBy 2 w s t :=
    haltedBy_of_exec_eq_fatal hexec hword
  exact ⟨halts rfl (encode_scd_toNat n), halts rfl rfl, halts rfl rfl, halts rfl rfl, halts rfl rfl,
    halts rfl (formatXK_pageF_toNat x 0x30), halts rfl (formatXK_pageF_toNat x 0x75),
    halts rfl (formatXK_pageF_toNat x 0x85)⟩

end Sys2Proof.Machine
end

section
/-! Exceptions (R230 to R236): the fatal conditions a step raises, that an instruction has no other way to fail, and that only
a reset leaves the halted state. -/

namespace Sys2Proof.Machine

open Sys2Proof.Spec

/-! ### The fatal conditions (R230, R235) -/

/-- Settles O10: the table of the next program counters (R27) names a next state for every kind, the fatal ones included. -/
theorem everyInstructionAnswersANextState : Obligations.EveryInstructionAnswersANextState := by
  intro i s
  obtain ⟨t, ht, -⟩ := nextPcIsThatOfTheTable i s
  exact ⟨t, ht⟩

/-- Settles O11: the instruction fetched takes the condition the table gives it, or there is none and the latch stays; the word
it records is the word fetched, because no bit is lost in decoding. -/
theorem stepRaisesExactlyTheFatalConditions : Obligations.StepRaisesExactlyTheFatalConditions := by
  intro s hhalt
  obtain ⟨t, ht⟩ := everyInstructionAnswersANextState (decode s.fetch) s
  refine ⟨t, (step_of_not_halt (by simp [hhalt])).trans ht, ?_⟩
  obtain ⟨c, hc, rfl⟩ | ⟨hnone, hhalt', hcause, hfaddr, hfword⟩ := exec_latch ht
  · rw [encode_decode, hc]
    refine ⟨fun c' hc' => ?_, nofun⟩
    cases hc'
    exact raiseFatal_haltedBy s c s.fetch
  · rw [hnone]
    exact ⟨nofun, fun _ => ⟨hhalt'.trans hhalt, hcause, hfaddr, hfword⟩⟩

/-! ### The halted state (R135, R236) -/

/-- `s` with the timers and the keys of `t`. -/
def State.withTimersAndKeysOf (s t : State) : State := { s with dt := t.dt, st := t.st, keys := t.keys }

theorem eq_withTimersAndKeysOf_trans {s t u : State} (ht : t = s.withTimersAndKeysOf t) (hu : u = t.withTimersAndKeysOf u) :
    u = s.withTimersAndKeysOf u :=
  hu.trans (congrArg (fun x => x.withTimersAndKeysOf u) ht)

/-- A halted system after its first step that differs from `s` at most in the timers and the keys. -/
def HaltedLike (s : State) (y : System) : Prop :=
  y.phase = .running ∧ y.core.halt = true ∧ y.core = s.withTimersAndKeysOf y.core

/-- A step of a halted machine does nothing, a load is refused, and the moves left but a reset set the timers or the keys. -/
theorem act_keeps_haltedLike {s : State} {a : Action} {y z : System} (ha : a ≠ .reset) (hy : HaltedLike s y)
    (h : y.act a = .next z) : HaltedLike s z := by
  obtain ⟨hphase, hhalt, hsame⟩ := hy
  cases a with
  | reset => exact absurd rfl ha
  | step =>
    obtain ⟨t, ht, rfl⟩ := act_step_eq_next.1 h
    cases (step_of_halt hhalt).symm.trans ht
    exact ⟨rfl, hhalt, hsame⟩
  | load image => exact absurd ((act_load_of_running hphase).symm.trans h) nofun
  | tick | setDelay | setSound | keys =>
    cases h
    exact ⟨hphase, hhalt, eq_withTimersAndKeysOf_trans hsame rfl⟩

/-- Settles O60, by induction over the moves: each move of the list, being no reset, keeps the system halted and like the one
it began as. -/
theorem haltedUntilReset : Obligations.HaltedUntilReset := by
  intro moves y z hhalt hphase hreset h
  have hkeep : ∀ a ∈ moves, ∀ x w, HaltedLike y.core x → x.act a = .next w → HaltedLike y.core w :=
    fun a ha _ _ => act_keeps_haltedLike fun heq => hreset (heq ▸ ha)
  obtain ⟨-, hhalt', hsame⟩ := actAll_keeps hkeep ⟨hphase, hhalt, rfl⟩ h
  exact ⟨hhalt', hsame⟩

end Sys2Proof.Machine
end
